-- ==== Sys2Proof/Word.lean ====
section
/-! DEFINITION. The plain value types of the block (00_scope.md R10): unsigned integers of a stated width, bit 0 the
least significant. -/

namespace Sys2Proof

/-- One byte: a ROM address or word, the sample, the position code (20_memory.md R34, R37). -/
abbrev Byte := BitVec 8

/-- A 3-bit code of the `STATE` format (30_encoding.md R50, R51). -/
abbrev StateCode := BitVec 3

/-- An `INPUT` word: the levels of `RST`, `STOP_REQ`, `BUS_FAULT`, `MISO` in one `CLK` cycle, bit 3 down to bit 0
(30_encoding.md R53). -/
abbrev InWord := BitVec 4

/-- All 256 bytes, in rising order. -/
def allBytes : List Byte := (List.range 256).map (BitVec.ofNat 8)

end Sys2Proof
end

