-- ==== Sys2Proof/Config.lean ====
section
/-! DEFINITION. What is fixed at elaboration (00_scope.md R8, R9) and the values the spec leaves open. Every open value
is an opaque constant without a body: a claim about the machine holds whatever it is. -/

namespace Sys2Proof

/-- The elaboration parameters that have no fixed value (00_scope.md R8). `T_REPEAT` is in milliseconds. The step
function reads only the three counts and the table (R9). -/
structure Params where
  /-- `F_CLK`, in Hz. -/
  fClk : Nat
  /-- `T_REPEAT`, in ms. -/
  tRepeatMs : Nat
  /-- `SETTLE_CYC`. -/
  settleCyc : Nat
  /-- `HALF_CYC`. -/
  halfCyc : Nat
  /-- `REPEAT_CYC`. -/
  repeatCyc : Nat
  /-- `GRAY_TABLE`. -/
  table : Byte → Byte

/-- `F_SCLK`, in Hz (00_scope.md R8). -/
def fSclk : Nat := 1000000

/-- `T_SETTLE`, in ms (00_scope.md R8). -/
def tSettleMs : Nat := 1

/-- `WORD_BITS` (00_scope.md R8). -/
def wordBits : Nat := 8

/-- `DUMMY`, the byte sent on `MOSI` (00_scope.md R8). -/
def dummy : Byte := 0xFF#8

/-- `N_POS` (00_scope.md R8). -/
def nPos : Nat := 128

/-- `SENTINEL`, the Invalid code (00_scope.md R8). -/
def sentinel : Byte := 200#8

/-- The counts `cnt` must be able to hold (00_scope.md R8, row `CNT_W`). -/
def Params.cntSpan (p : Params) : Nat :=
  max p.settleCyc (max (16 * p.halfCyc + p.settleCyc) p.repeatCyc)

/-- `CNT_W`: the least `w` with `2^w >= max(SETTLE_CYC, 16*HALF_CYC + SETTLE_CYC, REPEAT_CYC)` (00_scope.md R8). -/
def Params.cntW (p : Params) : Nat :=
  if p.cntSpan ≤ 1 then 0 else Nat.log2 (p.cntSpan - 1) + 1

/-- The seven known entries of `GRAY_TABLE`, address and word (40_gray_decoder.md R67). -/
def knownEntries : List (Nat × Nat) :=
  [(127, 0), (63, 1), (8, 8), (1, 56), (2, 40), (4, 24), (0, 200)]

/-- The 249 addresses whose entry the spec leaves open (40_gray_decoder.md R67). -/
def openAddrs : List Nat := (List.range 256).filter fun a => !(knownEntries.any fun e => e.1 == a)

/-- The 122 positions that no known entry holds. -/
def openPositions : List Nat := (List.range 128).filter fun q => !(knownEntries.any fun e => e.2 == q)

/-- The place of an open address among the open addresses. -/
def openRank (a : Byte) : Fin 249 := Fin.ofNat 249 (openAddrs.idxOf a.toNat)

/-- The table that a permutation of the 249 open addresses describes: a known address holds its known entry (R67); an
open address holds the open position at its permuted place, or `SENTINEL` where that place is past the last open
position. Every table of this form keeps R63 to R67, and every table that keeps them is of this form (log 4). -/
def tableOf (σ : Equiv.Perm (Fin 249)) (a : Byte) : Byte :=
  match knownEntries.lookup a.toNat with
  | some d => BitVec.ofNat 8 d
  | none => BitVec.ofNat 8 (openPositions.getD (σ (openRank a)).val 200)

/-- Which open address holds which open position: left open by the spec (40_gray_decoder.md R71; 92 D15; log 4). -/
opaque Config.tablePerm : Equiv.Perm (Fin 249)

/-- `SETTLE_CYC - 1`: open; the count is at least 1 by 00_scope.md R9 (log 5). -/
opaque Config.settleLess : Nat

/-- `HALF_CYC - 1`: open; the count is at least 1 by 00_scope.md R9 (log 5). -/
opaque Config.halfLess : Nat

/-- `REPEAT_CYC - 1`: open; the count is at least 1 by 00_scope.md R9 (log 5). -/
opaque Config.repeatLess : Nat

/-- `F_CLK`: open (00_scope.md R8; 92 D1; log 5). -/
opaque Config.fClk : Nat

/-- `T_REPEAT` in ms: configurable (00_scope.md R8; log 5). -/
opaque Config.tRepeatMs : Nat

/-- `GRAY_TABLE` of this machine (40_gray_decoder.md R61). -/
def Config.grayTable : Byte → Byte := tableOf Config.tablePerm

/-- The elaboration of this machine: any one that meets the structural constraints of 00_scope.md R9. -/
def Config.params : Params where
  fClk := Config.fClk
  tRepeatMs := Config.tRepeatMs
  settleCyc := Config.settleLess + 1
  halfCyc := Config.halfLess + 1
  repeatCyc := Config.repeatLess + 1
  table := Config.grayTable

/-- The `n`-th INPUT word the environment gives where the event queue holds none: any value (93 I12, I14; log 2). -/
opaque Config.freeInput : Nat → InWord

/-- `state` at power-up, before the first reset: unspecified (10_state.md R31; log 12). -/
opaque Config.powerUpState : StateCode

/-- `cnt` at power-up: unspecified (10_state.md R31; log 12). -/
opaque Config.powerUpCnt : Nat

/-- `rx` at power-up: unspecified (10_state.md R31; log 12). -/
opaque Config.powerUpRx : Byte

/-- `sample_q` at power-up: unspecified (10_state.md R31; log 12). -/
opaque Config.powerUpSample : Byte

/-- `pos_q` at power-up: unspecified (10_state.md R31; log 12). -/
opaque Config.powerUpPos : Byte

/-- `fault_q` at power-up: unspecified (10_state.md R31; log 12). -/
opaque Config.powerUpFault : Bool

end Sys2Proof
end

