-- ==== Sys2Proof/Syntax.lean ====
section
/-! DEFINITION. The operations of the block: one constructor of `Instr` per row of spec/opcode_table.json
(30_encoding.md R47), the eight controller operations on their own, and the stimulus notation of R58. -/

namespace Sys2Proof

/-- The three encoded formats (30_encoding.md R47). -/
inductive Format where
  /-- 8 bits: the address of a DECODE (R48). -/
  | rom
  /-- 3 bits: the code in the `state` register (R50). -/
  | state
  /-- 4 bits: the input levels of one `CLK` cycle (R53). -/
  | input
deriving DecidableEq, Repr

/-- The eight controller operations, one per 3-bit code (30_encoding.md R50, R51). -/
inductive Ctl where
  | idle | latchLow | latchHigh | enableOut | transfer | disableOut | report | reserved
deriving DecidableEq, Repr

/-- The operations of spec/opcode_table.json, in the table's order. -/
inductive Instr where
  /-- `DECODE`: the ROM read at address `A[7:0] = a` (40_gray_decoder.md R61). -/
  | decode (a : Byte)
  /-- `IDLE`, code 3'b000 (41_sampling_fsm.md R81). -/
  | idle
  /-- `LATCH_LOW`, code 3'b001 (R82). -/
  | latchLow
  /-- `LATCH_HIGH`, code 3'b010 (R83). -/
  | latchHigh
  /-- `ENABLE_OUT`, code 3'b011 (R84). -/
  | enableOut
  /-- `TRANSFER`, code 3'b100 (R85). -/
  | transfer
  /-- `DISABLE_OUT`, code 3'b101 (R86). -/
  | disableOut
  /-- `REPORT`, code 3'b110 (R87). -/
  | report
  /-- `RESERVED`, code 3'b111 (R88). -/
  | reserved
  /-- `RESET`, a cycle with `RST = 1` (70_reset_and_hazards.md R123). `x` is `STOP_REQ`, `BUS_FAULT`, `MISO`: ignored. -/
  | reset (x : BitVec 3)
  /-- `STEP`, a cycle with `RST = 0` and the levels of the other three inputs (41_sampling_fsm.md R75). -/
  | step (stopReq busFault miso : Bool)
deriving DecidableEq, Repr

/-- The operation of the table that a controller operation is. -/
def Ctl.instr : Ctl → Instr
  | .idle => .idle
  | .latchLow => .latchLow
  | .latchHigh => .latchHigh
  | .enableOut => .enableOut
  | .transfer => .transfer
  | .disableOut => .disableOut
  | .report => .report
  | .reserved => .reserved

/-- One line of the stimulus notation, as abstract syntax (30_encoding.md R58). -/
inductive Line where
  /-- `PARAM S=s H=h R=r`: the counts the following lines are written for; it expands to no word. -/
  | param (s h r : Nat)
  /-- `WORDS w xn ...`: explicit words, each with how often it is repeated. -/
  | words (ws : List (InWord × Nat))
  /-- `RESET` -/
  | reset
  /-- `IDLE_RUN n` -/
  | idleRun (n : Nat)
  /-- `STOP n` -/
  | stop (n : Nat)
  /-- `CYCLE b`: one whole controller cycle reading `b`. -/
  | cycle (b : Byte)
  /-- `CYCLE_FAULT b k`: like `CYCLE b`, with `BUS_FAULT = 1` in word `k`. -/
  | cycleFault (b : Byte) (k : Nat)
deriving DecidableEq, Repr

end Sys2Proof
end

