-- ==== Sys2Proof/WellFormed.lean ====
section
/-! DEFINITION. The checks: which bytes are a word of a format, which elaborations are a machine (00_scope.md R9;
93 I7), which stimulus lines the notation admits (30_encoding.md R59). -/

namespace Sys2Proof

/-- How many bits a word of the format has (30_encoding.md R47). -/
def Format.width : Format → Nat
  | .rom => 8
  | .state => 3
  | .input => 4

/-- The byte is a word of the format: the bits above the format's width are 0 (30_encoding.md R47). -/
def Format.fits (f : Format) (b : Byte) : Bool := decide (b.toNat < 2 ^ f.width)

/-- Every operand of every operation is legal (30_encoding.md R48, R52, R60), and the operand types hold nothing
else, so every `Instr` is well formed. -/
def Instr.wellFormed : Instr → Bool
  | .decode _ => true
  | .idle => true
  | .latchLow => true
  | .latchHigh => true
  | .enableOut => true
  | .transfer => true
  | .disableOut => true
  | .report => true
  | .reserved => true
  | .reset _ => true
  | .step _ _ _ => true

/-- `V`, the valid codes of a table (40_gray_decoder.md section 2). -/
def validCodes (T : Byte → Byte) : List Byte := allBytes.filter fun a => decide ((T a).toNat ≤ 127)

/-- R63: every entry is a position or `SENTINEL`. -/
def tableRange (T : Byte → Byte) : Bool := allBytes.all fun a => decide ((T a).toNat ≤ 127) || T a == sentinel

/-- R64: exactly 128 addresses are valid. -/
def tableCount (T : Byte → Byte) : Bool := (validCodes T).length == nPos

/-- R65: no two valid codes hold the same position. -/
def tableInjective (T : Byte → Byte) : Bool := decide ((validCodes T).map T).Nodup

/-- R66: every address outside `V` holds `SENTINEL`. -/
def tableInvalid (T : Byte → Byte) : Bool :=
  (allBytes.filter fun a => !decide ((T a).toNat ≤ 127)).all fun a => T a == sentinel

/-- R67: the seven known entries. -/
def tableKnown (T : Byte → Byte) : Bool :=
  knownEntries.all fun e => T (BitVec.ofNat 8 e.1) == BitVec.ofNat 8 e.2

/-- The constraints on `GRAY_TABLE` (40_gray_decoder.md R63 to R67). -/
def tableLegal (T : Byte → Byte) : Bool :=
  tableRange T && tableCount T && tableInjective T && tableInvalid T && tableKnown T

/-- The structural constraints: an elaboration that breaks one has no machine (00_scope.md R9, first set). -/
def Params.structural (p : Params) : Bool :=
  decide (1 ≤ p.halfCyc) && decide (1 ≤ p.settleCyc) && decide (1 ≤ p.repeatCyc) && tableLegal p.table

/-- The contract with the external part (00_scope.md R9, second set): `SCLK` at exactly 1 MHz, settle delays of at
least 1 ms, the configured repeat interval. The step function does not read it. -/
def Params.contract (p : Params) : Bool :=
  p.fClk % (2 * fSclk) == 0 && p.halfCyc == p.fClk / (2 * fSclk)
    && decide ((tSettleMs * p.fClk + 999) / 1000 ≤ p.settleCyc)
    && p.repeatCyc * 1000 == p.tRepeatMs * p.fClk

/-- The period of a good controller cycle, `P = 3 + 3*S + 16*H + R` (41_sampling_fsm.md R92). -/
def Params.period (p : Params) : Nat := 3 + 3 * p.settleCyc + 16 * p.halfCyc + p.repeatCyc

/-- A line the notation admits under the counts of `p`: counts of at least 1 (00_scope.md R9), and a fault offset
inside the cycle, `0 <= k <= P - 1` (30_encoding.md R59). -/
def Line.wellFormed (p : Params) : Line → Bool
  | .param s h r => decide (1 ≤ s) && decide (1 ≤ h) && decide (1 ≤ r)
  | .cycleFault _ k => decide (k ≤ p.period - 1)
  | .words _ => true
  | .reset => true
  | .idleRun _ => true
  | .stop _ => true
  | .cycle _ => true

end Sys2Proof
end

