-- ==== Sys2Proof/Decode.lean ====
section
/-! DEFINITION. The decoder of the three formats, total on every byte, and the encoder (30_encoding.md R47 to R53). -/

namespace Sys2Proof

/-- Why a byte is no word of a format. -/
inductive DecodeError where
  /-- A byte above 7 is no code of the 3-bit `STATE` format (30_encoding.md R47). -/
  | notAStateCode
  /-- A byte above 15 is no word of the 4-bit `INPUT` format (30_encoding.md R47). -/
  | notAnInputWord
deriving DecidableEq, Repr

/-- The controller operation of a 3-bit code: all three bits are tested (30_encoding.md R50 to R52). -/
def decodeCtl (c : StateCode) : Ctl :=
  match c.toNat with
  | 0 => .idle
  | 1 => .latchLow
  | 2 => .latchHigh
  | 3 => .enableOut
  | 4 => .transfer
  | 5 => .disableOut
  | 6 => .report
  | _ => .reserved

/-- The 3-bit code of a controller operation (30_encoding.md R50, R51). -/
def encodeCtl : Ctl → StateCode
  | .idle => 0b000#3
  | .latchLow => 0b001#3
  | .latchHigh => 0b010#3
  | .enableOut => 0b011#3
  | .transfer => 0b100#3
  | .disableOut => 0b101#3
  | .report => 0b110#3
  | .reserved => 0b111#3

/-- The operation of an `INPUT` word: bit 3 is `RST`, bit 2 `STOP_REQ`, bit 1 `BUS_FAULT`, bit 0 `MISO`
(30_encoding.md R53). -/
def decodeInput (w : InWord) : Instr :=
  if w[3] then .reset (w.extractLsb' 0 3) else .step (w[2]) (w[1]) (w[0])

/-- The `INPUT` word of four levels (30_encoding.md R53). -/
def inputWord (rst stopReq busFault miso : Bool) : InWord :=
  (BitVec.ofBool rst ++ BitVec.ofBool stopReq) ++ (BitVec.ofBool busFault ++ BitVec.ofBool miso)

/-- Decoding, total on every byte: every word of a format has its operation (30_encoding.md R48, R52, R60), and a byte
with a bit above the format's width is rejected by name. -/
def decode (f : Format) (b : Byte) : Except DecodeError Instr :=
  match f with
  | .rom => .ok (.decode b)
  | .state => if f.fits b then .ok (decodeCtl (b.extractLsb' 0 3)).instr else .error .notAStateCode
  | .input => if f.fits b then .ok (decodeInput (b.extractLsb' 0 4)) else .error .notAnInputWord

/-- A `STATE` code as a byte. -/
def ctlByte (c : Ctl) : Byte := 0#5 ++ encodeCtl c

/-- Encoding: the format of an operation and its word, written from the encodings of 30_encoding.md R48 to R53. -/
def encode : Instr → Format × Byte
  | .decode a => (.rom, a)
  | .idle => (.state, ctlByte .idle)
  | .latchLow => (.state, ctlByte .latchLow)
  | .latchHigh => (.state, ctlByte .latchHigh)
  | .enableOut => (.state, ctlByte .enableOut)
  | .transfer => (.state, ctlByte .transfer)
  | .disableOut => (.state, ctlByte .disableOut)
  | .report => (.state, ctlByte .report)
  | .reserved => (.state, ctlByte .reserved)
  | .reset x => (.input, 0#4 ++ (1#1 ++ x))
  | .step s b m => (.input, 0#4 ++ inputWord false s b m)

/-- Which format a word of the opcode table is read in. The formats sit in three places of the machine (the address
port, the `state` register, the input pins), so their words share bit patterns and no bit of a word tells the format:
3 bits are a `STATE` code, 4 bits an `INPUT` word; where only whole bytes are given, 0 to 7 are read as a `STATE` code,
8 to 15 as an `INPUT` word (`RESET`), the rest as a ROM address (log 9). -/
def tableFormat (nbits w : Nat) : Format :=
  if nbits = 3 then .state
  else if nbits = 4 then .input
  else if w < 8 then .state
  else if w < 16 then .input
  else .rom

/-- The operation the decoder reads from a word of spec/opcode_table.json (log 9); every row is one byte or less, and
the block has no operand words (30_encoding.md R57). -/
def decodeTableWord (nbits w : Nat) : Option Instr :=
  if w < 256 then (decode (tableFormat nbits w) (BitVec.ofNat 8 w)).toOption else none

end Sys2Proof
end

