-- ==== Sys2Proof/Machine/State.lean ====
section
/-! DEFINITION. The state of the machine as plain data, its value right after reset and at power-up, and the reasons a
step can stop. -/

namespace Sys2Proof.Machine

/-- What the spec refuses to give a meaning as a stimulus (30_encoding.md R60; 93 I5, I6). -/
inductive StimulusError where
  /-- An input level that is neither 0 nor 1: unknown, floating, metastable (93 I5). -/
  | levelNotBinary
  /-- An input that changes other than in step with `CLK`, or breaks setup or hold (93 I6). -/
  | notInStepWithClk
deriving DecidableEq, Repr

/-- One thing the environment does next. -/
inductive Event where
  /-- One `CLK` cycle with these input levels, ended by its rising edge (30_encoding.md R53; 41_sampling_fsm.md R75). -/
  | clk (w : InWord)
  /-- An outside reader puts the address `a` on `GRAYROM`'s port `A` (10_state.md R28; 40_gray_decoder.md R61). No
  edge of `CLK` belongs to it. -/
  | romRead (a : Byte)
  /-- A stimulus that is no program of the block (30_encoding.md R60). -/
  | illegal (e : StimulusError)
deriving DecidableEq, Repr

/-- The machine. The first six fields are the complete state vector of the spec (10_state.md R15); the next three are
levels on its ports; the last two are the model's own (the environment). -/
structure State where
  /-- `state`, the 3-bit code of the current operation (R16). -/
  state : StateCode
  /-- `cnt`, a `CNT_W`-bit unsigned counter (R17; log 6). -/
  cnt : Nat
  /-- `rx`, the serial receive shift register (R18). -/
  rx : Byte
  /-- `sample_q`, which drives `SAMPLE` (R19). -/
  sampleQ : Byte
  /-- `pos_q`, which drives `POSITION` (R20). -/
  posQ : Byte
  /-- `fault_q`, the block's only flag (R21, R24). -/
  faultQ : Bool
  /-- The levels on `RST`, `STOP_REQ`, `BUS_FAULT`, `MISO` in the current `CLK` cycle (R26; log 8). -/
  pins : InWord
  /-- The address an outside reader last put on `GRAYROM`'s port `A` (R28; log 7). -/
  romA : Byte
  /-- The word on `GRAYROM`'s port `D` for that address (R28; log 7). -/
  romD : Byte
  /-- The environment's events to come, the next one first (log 1). -/
  events : List Event
  /-- How many free INPUT words have been drawn (log 2). -/
  drawn : Nat
deriving DecidableEq, Repr

/-- The machine stops with a fault: never. No behaviour of the block is a fault, and no condition is fatal
(41_sampling_fsm.md R75; 60_exceptions.md R118; 93 section 1). Safe. -/
inductive Fault where
deriving DecidableEq, Repr

/-- The machine has no meaning for what comes next. -/
inductive Refusal where
  /-- Raised by an arm of `exec` for an instruction that has no meaning yet; no arm does. Safe. -/
  | notModelled (mnemonic : String)
  /-- Raised by `step` on a stimulus that 30_encoding.md R60 refuses; no instruction raises it. Safe. -/
  | illegalStimulus (e : StimulusError)
deriving DecidableEq, Repr

/-- The machine right after a reset edge: the six registers at the values of 10_state.md R30. The spec gives the port
levels and the environment no reset value: those are the model's (log 1, 2, 7, 8). -/
def State.reset : State where
  state := encodeCtl .idle
  cnt := 0
  rx := 0x00#8
  sampleQ := 0x00#8
  posQ := sentinel
  faultQ := false
  pins := 0x8#4
  romA := 0x00#8
  romD := sentinel
  events := []
  drawn := 0

/-- The machine before its first reset: every register unspecified (10_state.md R31; log 12). -/
def State.powerUp : State where
  state := Config.powerUpState
  cnt := Config.powerUpCnt % 2 ^ Config.params.cntW
  rx := Config.powerUpRx
  sampleQ := Config.powerUpSample
  posQ := Config.powerUpPos
  faultQ := Config.powerUpFault
  pins := 0x8#4
  romA := 0x00#8
  romD := sentinel
  events := []
  drawn := 0

end Sys2Proof.Machine
end

