-- ==== Sys2Proof/Machine/Operands.lean ====
section
/-! DEFINITION. The operands the operations read: the input levels of the cycle, the tests on `cnt`, the bit that
`MISO` shifts in, the ROM word (41_sampling_fsm.md section 3, line "Operands" of each rule). -/

namespace Sys2Proof.Machine

/-- `RST` in this cycle (30_encoding.md R53, bit 3). -/
def State.rst (s : State) : Bool := s.pins[3]

/-- `STOP_REQ` in this cycle (30_encoding.md R53, bit 2). -/
def State.stopReq (s : State) : Bool := s.pins[2]

/-- `BUS_FAULT` in this cycle (30_encoding.md R53, bit 1). -/
def State.busFault (s : State) : Bool := s.pins[1]

/-- `MISO` in this cycle (30_encoding.md R53, bit 0). -/
def State.miso (s : State) : Bool := s.pins[0]

/-- The exit test of a timed state that lasts `d` cycles: `cnt >= d - 1` (41_sampling_fsm.md R89). -/
def atExit (d cnt : Nat) : Bool := decide (d - 1 ≤ cnt)

/-- How many cycles `TRANSFER` lasts: 8 bits of `2*H` each, then the settle delay (41_sampling_fsm.md R77). -/
def transferCyc (p : Params) : Nat := 16 * p.halfCyc + p.settleCyc

/-- `t` is a sample cycle of `TRANSFER`: `t < 16*H` and `t mod (2*H) = H - 1` (42_spi_transfer.md R102). -/
def isSampleCycle (p : Params) (t : Nat) : Bool :=
  decide (t < 16 * p.halfCyc) && decide (t % (2 * p.halfCyc) = p.halfCyc - 1)

/-- `{rx[6:0], MISO}` (42_spi_transfer.md R102). -/
def shiftIn (rx : Byte) (miso : Bool) : Byte := rx.extractLsb' 0 7 ++ BitVec.ofBool miso

/-- `MemRead(a, 1) = GRAY_TABLE[a]`, the only access to the block's only memory: total and combinational
(20_memory.md R35, R41). -/
def memRead (p : Params) (a : Byte) : Byte := p.table a

end Sys2Proof.Machine
end

