-- ==== Sys2Proof/Machine/Flags.lean ====
section
/-! DEFINITION. The verdicts of the block: its one flag `fault_q` and the valid bit of a ROM word. -/

namespace Sys2Proof.Machine

/-- `f = fault_q OR BUS_FAULT`, the flag `DISABLE_OUT` writes (41_sampling_fsm.md R86; 60_exceptions.md R113). -/
def mergedFault (s : State) : Bool := s.faultQ || s.busFault

/-- `VALID = NOT D[7]` (40_gray_decoder.md R69). -/
def valid (d : Byte) : Bool := !d[7]

/-- `BUS_FAULT` is read in these states (60_exceptions.md R110); in `IDLE`, `REPORT` and 3'b111 it is ignored
(R114). -/
def readsBusFault : Ctl → Bool
  | .idle => false
  | .latchLow => true
  | .latchHigh => true
  | .enableOut => true
  | .transfer => true
  | .disableOut => true
  | .report => false
  | .reserved => false

end Sys2Proof.Machine
end

