-- ==== Sys2Proof/Machine/Ops.lean ====
section
/-! DEFINITION. The operations the meanings share: moving to a state, counting, the abort path and the return from it,
the report registers, the receive register, reset, the port levels, and what the environment does next. -/

namespace Sys2Proof.Machine

/-- `state <- c; cnt <- 0`: every state change clears the counter (00_scope.md R14; 10_state.md R17). -/
def State.goto (s : State) (c : Ctl) : State := { s with state := encodeCtl c, cnt := 0 }

/-- `cnt <- cnt + 1`, modulo `2^CNT_W` (00_scope.md R10; 10_state.md R17; log 6). -/
def State.tick (p : Params) (s : State) : State := { s with cnt := (s.cnt + 1) % 2 ^ p.cntW }

/-- `fault_q <- f` (10_state.md R21). -/
def State.setFault (s : State) (f : Bool) : State := { s with faultQ := f }

/-- `rx <- 8'h00`, on the way into `TRANSFER` (10_state.md R18; 41_sampling_fsm.md R84). -/
def State.clearRx (s : State) : State := { s with rx := 0x00#8 }

/-- `raise BusFault()`, the abort path: control goes to `DISABLE_OUT`, the flag is set, nothing is saved, and `rx`,
`sample_q`, `pos_q` are not written (60_exceptions.md R112). -/
def State.raiseBusFault (s : State) : State := (s.goto .disableOut).setFault true

/-- The return from the abort path, which is `REPORT`'s exit in every cycle: `state <- IDLE; cnt <- 0; fault_q <- 0`
(60_exceptions.md R115; 41_sampling_fsm.md R87). The reserved code recovers in the same way (R88). -/
def State.endCycle (s : State) : State := (s.goto .idle).setFault false

/-- The receive register takes one level of `MISO` (42_spi_transfer.md R102). -/
def State.receive (s : State) : State := { s with rx := shiftIn s.rx s.miso }

/-- The report registers take the sample and its position code, in one step (41_sampling_fsm.md R86). -/
def State.writeReport (p : Params) (s : State) : State := { s with sampleQ := s.rx, posQ := memRead p s.rx }

/-- Every register takes its reset value (70_reset_and_hazards.md R123; 10_state.md R30). The levels on the ports and
the environment are no registers: they stay. -/
def State.resetRegisters (s : State) : State :=
  { s with
    state := State.reset.state, cnt := State.reset.cnt, rx := State.reset.rx,
    sampleQ := State.reset.sampleQ, posQ := State.reset.posQ, faultQ := State.reset.faultQ }

/-- The input levels of the cycle (30_encoding.md R53). -/
def State.withPins (s : State) (w : InWord) : State := { s with pins := w }

/-- An outside reader reads `GRAYROM` at `a`: `D` shows the word of `a`; no register changes (40_gray_decoder.md R61,
R62; log 7). -/
def State.readRom (p : Params) (s : State) (a : Byte) : State := { s with romA := a, romD := memRead p a }

/-- What the environment does next, and the state with that taken off the queue. Where the queue is empty, the
environment still drives its inputs in every `CLK` cycle: the next free INPUT word (log 2). -/
def State.fetch (s : State) : Event × State :=
  match s.events with
  | e :: rest => (e, { s with events := rest })
  | [] => (.clk (Config.freeInput s.drawn), { s with drawn := s.drawn + 1 })

/-- The operation an event runs: the decoder's reading of its word (30_encoding.md R48, R53), or the refusal of R60. -/
def Event.decoded : Event → Except StimulusError Instr
  | .clk w => .ok (decodeInput w)
  | .romRead a => .ok (.decode a)
  | .illegal e => .error e

/-- Place a word where the next step takes it. An `INPUT` word is the next `CLK` cycle and a ROM address the next
stand-alone read. A `STATE` code is selected by the `state` register (30_encoding.md R50), and a `CLK` cycle with all
inputs 0 runs it (log 9, 10). -/
def State.place (s : State) (f : Format) (w : Nat) : State :=
  match f with
  | .rom => { s with events := .romRead (BitVec.ofNat 8 w) :: s.events }
  | .state => { s with state := BitVec.ofNat 3 w, events := .clk 0x0#4 :: s.events }
  | .input => { s with events := .clk (BitVec.ofNat 4 w) :: s.events }

/-- Words the environment gives after those it already has (30_encoding.md R58; log 10). -/
def State.feed (s : State) (ws : List InWord) : State := { s with events := s.events ++ ws.map .clk }

end Sys2Proof.Machine
end

