-- ==== Sys2Proof/Machine/Sampctl.lean ====
section
/-! DEFINITION. The eight controller operations (41_sampling_fsm.md R81 to R88). Each rule is a function of the
elaboration and the state, whose `pins` hold the input levels of the cycle; `RST` has been tested before (R75). -/

namespace Sys2Proof.Machine

/-- R81: wait while `STOP_REQ = 1`, else start a cycle. -/
def ruleIdle (s : State) : State :=
  if s.stopReq then s else s.goto .latchLow

/-- R82: `LOAD` low for `S` cycles. -/
def ruleLatchLow (p : Params) (s : State) : State :=
  if s.busFault then s.raiseBusFault
  else if atExit p.settleCyc s.cnt then s.goto .latchHigh
  else s.tick p

/-- R83: `LOAD` high, one cycle. -/
def ruleLatchHigh (s : State) : State :=
  if s.busFault then s.raiseBusFault else s.goto .enableOut

/-- R84: `INHIBIT` low for `S` cycles; `rx` is cleared on the way out. -/
def ruleEnableOut (p : Params) (s : State) : State :=
  if s.busFault then s.raiseBusFault
  else if atExit p.settleCyc s.cnt then (s.goto .transfer).clearRx
  else s.tick p

/-- What `TRANSFER` does to `rx` in a cycle without a bus fault (42_spi_transfer.md R102). -/
def sampled (p : Params) (s : State) : State :=
  if isSampleCycle p s.cnt then s.receive else s

/-- R85: eight bits, then the settle delay. The sample and the counter are written together. So `INHIBIT` rises `S + H`
cycles after the last rising edge of `SCLK`, as R85, R90, R100 and trace P1 have it, and not `S` as R91 and R129 say
(DEDUCED: log 20). -/
def ruleTransfer (p : Params) (s : State) : State :=
  if s.busFault then s.raiseBusFault
  else if atExit (transferCyc p) s.cnt then (sampled p s).goto .disableOut
  else (sampled p s).tick p

/-- R86: the report registers are written in a cycle without a bus fault; `REPORT` follows in every case. -/
def ruleDisableOut (p : Params) (s : State) : State :=
  ((if mergedFault s then s else s.writeReport p).goto .report).setFault (mergedFault s)

/-- R87: the repeat interval; the exit clears `fault_q`. -/
def ruleReport (p : Params) (s : State) : State :=
  if atExit p.repeatCyc s.cnt then s.endCycle else s.tick p

/-- R88: the reserved code recovers to `IDLE`; `rx` and the report registers are not repaired. -/
def ruleReserved (s : State) : State := s.endCycle

/-- The rule of a controller operation (41_sampling_fsm.md R75, the case on `s.state`). -/
def ctlRule (p : Params) : Ctl → State → State
  | .idle, s => ruleIdle s
  | .latchLow, s => ruleLatchLow p s
  | .latchHigh, s => ruleLatchHigh s
  | .enableOut, s => ruleEnableOut p s
  | .transfer, s => ruleTransfer p s
  | .disableOut, s => ruleDisableOut p s
  | .report, s => ruleReport p s
  | .reserved, s => ruleReserved s

/-- `IDLE` (R81). -/
def execIdle (s : State) : Host.Outcome State Fault Refusal := .next (ruleIdle s)

/-- `LATCH_LOW` (R82). -/
def execLatchLow (s : State) : Host.Outcome State Fault Refusal := .next (ruleLatchLow Config.params s)

/-- `LATCH_HIGH` (R83). -/
def execLatchHigh (s : State) : Host.Outcome State Fault Refusal := .next (ruleLatchHigh s)

/-- `ENABLE_OUT` (R84). -/
def execEnableOut (s : State) : Host.Outcome State Fault Refusal := .next (ruleEnableOut Config.params s)

/-- `TRANSFER` (R85). -/
def execTransfer (s : State) : Host.Outcome State Fault Refusal := .next (ruleTransfer Config.params s)

/-- `DISABLE_OUT` (R86). -/
def execDisableOut (s : State) : Host.Outcome State Fault Refusal := .next (ruleDisableOut Config.params s)

/-- `REPORT` (R87). -/
def execReport (s : State) : Host.Outcome State Fault Refusal := .next (ruleReport Config.params s)

/-- `RESERVED` (R88). -/
def execReserved (s : State) : Host.Outcome State Fault Refusal := .next (ruleReserved s)

end Sys2Proof.Machine
end

