-- ==== Sys2Proof/Machine/Inputs.lean ====
section
/-! DEFINITION. The two operations of the `INPUT` format: what one rising edge of `CLK` does (41_sampling_fsm.md R75;
70_reset_and_hazards.md R123). -/

namespace Sys2Proof.Machine

/-- An edge with `RST = 1`: every register takes its reset value, whatever the other levels `x` are
(70_reset_and_hazards.md R123). -/
def ruleReset (x : BitVec 3) (s : State) : State := (s.withPins (1#1 ++ x)).resetRegisters

/-- An edge with `RST = 0`: the rule of the operation whose code `state` holds, under the levels of the cycle
(41_sampling_fsm.md R75). -/
def ruleStep (p : Params) (stopReq busFault miso : Bool) (s : State) : State :=
  ctlRule p (decodeCtl s.state) (s.withPins (inputWord false stopReq busFault miso))

/-- The step function of 41_sampling_fsm.md R75, `step(s, in)`, under any elaboration. -/
def clkEdge (p : Params) (w : InWord) (s : State) : State :=
  if w[3] then ruleReset (w.extractLsb' 0 3) s
  else ruleStep p (w[2]) (w[1]) (w[0]) s

/-- `RESET` (70_reset_and_hazards.md R123). -/
def execReset (x : BitVec 3) (s : State) : Host.Outcome State Fault Refusal := .next (ruleReset x s)

/-- `STEP` (41_sampling_fsm.md R75). -/
def execStep (stopReq busFault miso : Bool) (s : State) : Host.Outcome State Fault Refusal :=
  .next (ruleStep Config.params stopReq busFault miso s)

end Sys2Proof.Machine
end

