-- ==== Sys2Proof/Machine/Rom.lean ====
section
/-! DEFINITION. The ROM's one operation (40_gray_decoder.md R61). -/

namespace Sys2Proof.Machine

/-- `DECODE`: `D[7:0] = GRAY_TABLE[A[7:0]]`; no flag, no exception, no register (40_gray_decoder.md R61, R62). -/
def execDecode (a : Byte) (s : State) : Host.Outcome State Fault Refusal :=
  .next (s.readRom Config.params a)

end Sys2Proof.Machine
end

