-- ==== Sys2Proof/Machine/Dispatch.lean ====
section
/-! DEFINITION. The one dispatch from an operation to its meaning. -/

namespace Sys2Proof.Machine

def exec (i : Instr) (s : State) : Host.Outcome State Fault Refusal :=
  match i with
  | .decode a => Sys2Proof.Machine.execDecode a s
  | .idle => Sys2Proof.Machine.execIdle s
  | .latchLow => Sys2Proof.Machine.execLatchLow s
  | .latchHigh => Sys2Proof.Machine.execLatchHigh s
  | .enableOut => Sys2Proof.Machine.execEnableOut s
  | .transfer => Sys2Proof.Machine.execTransfer s
  | .disableOut => Sys2Proof.Machine.execDisableOut s
  | .report => Sys2Proof.Machine.execReport s
  | .reserved => Sys2Proof.Machine.execReserved s
  | .reset x => Sys2Proof.Machine.execReset x s
  | .step stopReq busFault miso => Sys2Proof.Machine.execStep stopReq busFault miso s

end Sys2Proof.Machine
end

