-- ==== Sys2Proof/Machine/Step.lean ====
section
/-! DEFINITION. One step of the machine: it takes what the environment does next, decodes it and runs it. -/

namespace Sys2Proof.Machine

/-- One step: a `CLK` cycle with its edge (41_sampling_fsm.md R75), or a stand-alone ROM read (40_gray_decoder.md R61).
A stimulus that is no program of the block is refused (30_encoding.md R60). -/
def step (s : State) : Host.Outcome State Fault Refusal :=
  match s.fetch.1.decoded with
  | .ok i => exec i s.fetch.2
  | .error e => .refused (.illegalStimulus e)

/-- The state with a word of spec/opcode_table.json placed where the next step takes it, in the format
`tableFormat` reads it in (log 9, 10). -/
def State.withFetchWord (s : State) (nbits w : Nat) : State := s.place (tableFormat nbits w) w

end Sys2Proof.Machine
end

