-- ==== Sys2Proof/Machine/Outputs.lean ====
section
/-! DEFINITION. The output ports, Moore functions of the registers (00_scope.md R12; 10_state.md R27), and the event
code they carry (60_exceptions.md R111). -/

namespace Sys2Proof.Machine

/-- The nine output ports of `SAMPCTL` (10_state.md R27), in the order of the output word (30_encoding.md R54). -/
structure Outputs where
  load : Bool
  inhibit : Bool
  sclk : Bool
  mosi : Bool
  reportStb : Bool
  faultStb : Bool
  idle : Bool
  sample : Byte
  position : Byte
deriving DecidableEq, Repr

/-- The machine is in the controller state `c`. -/
def State.isIn (s : State) (c : Ctl) : Bool := s.state == encodeCtl c

/-- `LOAD` is 0 exactly in `LATCH_LOW` (41_sampling_fsm.md R78). -/
def loadLine (s : State) : Bool := !s.isIn .latchLow

/-- `INHIBIT` is 0 exactly in `ENABLE_OUT` and `TRANSFER` (41_sampling_fsm.md R78). -/
def inhibitLine (s : State) : Bool := !(s.isIn .enableOut || s.isIn .transfer)

/-- `SCLK` is 0 in the first half of each bit window of `TRANSFER`, else 1 (42_spi_transfer.md R100; its last rise: log 20). -/
def sclkLine (p : Params) (s : State) : Bool :=
  !(s.isIn .transfer && decide (s.cnt < 16 * p.halfCyc) && decide (s.cnt % (2 * p.halfCyc) < p.halfCyc))

/-- `MOSI` is 1 in every state and every cycle: `DUMMY` is all ones, and so is the idle level (42_spi_transfer.md
R101). -/
def mosiLine : Bool := true

/-- The first cycle of `REPORT`, in which one of the strobes is 1 (41_sampling_fsm.md R80). -/
def inReportStart (s : State) : Bool := s.isIn .report && decide (s.cnt = 0)

/-- The output ports in the current cycle (41_sampling_fsm.md R78 to R80; 42_spi_transfer.md R100, R101). -/
def outputs (p : Params) (s : State) : Outputs where
  load := loadLine s
  inhibit := inhibitLine s
  sclk := sclkLine p s
  mosi := mosiLine
  reportStb := inReportStart s && !s.faultQ
  faultStb := inReportStart s && s.faultQ
  idle := s.isIn .idle
  sample := s.sampleQ
  position := s.posQ

/-- The first seven bits of the output word, `LOAD INHIBIT SCLK MOSI REPORT_STB FAULT_STB IDLE`, as a trace writes
them, `LOAD` leftmost (30_encoding.md R54). -/
def Outputs.lines (o : Outputs) : BitVec 7 :=
  BitVec.ofBool o.load ++ (BitVec.ofBool o.inhibit ++ (BitVec.ofBool o.sclk ++ (BitVec.ofBool o.mosi ++
    (BitVec.ofBool o.reportStb ++ (BitVec.ofBool o.faultStb ++ BitVec.ofBool o.idle)))))

/-- The outcome of a controller cycle (60_exceptions.md R111). -/
inductive CycleEvent where
  /-- A valid position was reported. -/
  | ok
  /-- The sample was no valid code (60_exceptions.md R109). -/
  | decodeMiss
  /-- The cycle was abandoned (60_exceptions.md R110). -/
  | busFault
deriving DecidableEq, Repr

/-- The number of an outcome (60_exceptions.md R111). -/
def CycleEvent.code : CycleEvent → Nat
  | .ok => 0
  | .decodeMiss => 1
  | .busFault => 2

/-- The outcome the outputs of a cycle carry, `none` where no strobe is 1 (60_exceptions.md R111). -/
def Outputs.event (o : Outputs) : Option CycleEvent :=
  if o.faultStb then some .busFault
  else if o.reportStb then (if o.position[7] then some .decodeMiss else some .ok)
  else none

end Sys2Proof.Machine
end

