-- ==== Sys2Proof/Machine/Stimulus.lean ====
section
/-! DEFINITION. The expansion of the stimulus notation into INPUT words (30_encoding.md R58, R59). -/

namespace Sys2Proof.Machine

/-- `T0 = 2 + 2*S`, the offset of the first `TRANSFER` cycle (30_encoding.md R59). -/
def transferOffset (p : Params) : Nat := 2 + 2 * p.settleCyc

/-- `MISO(k)` of `CYCLE B`: bit `B[7-i]` in the whole of bit window `i`, 0 outside the windows (30_encoding.md R59). -/
def cycleMiso (p : Params) (b : Byte) (k : Nat) : Bool :=
  decide (transferOffset p ≤ k) && decide (k < transferOffset p + 16 * p.halfCyc)
    && b.getLsbD (7 - (k - transferOffset p) / (2 * p.halfCyc))

/-- The words of `CYCLE B` (30_encoding.md R59). -/
def cycleWords (p : Params) (b : Byte) : List InWord :=
  (List.range p.period).map fun k => inputWord false false false (cycleMiso p b k)

/-- `L(k)`, the length of `CYCLE_FAULT B k` (30_encoding.md R59). -/
def faultCycleLength (p : Params) (k : Nat) : Nat :=
  if 1 ≤ k ∧ k ≤ 3 * p.settleCyc + 16 * p.halfCyc + 1 then k + 2 + p.repeatCyc else p.period

/-- The words of `CYCLE_FAULT B k`: the first `L(k)` words of `CYCLE B`, with `BUS_FAULT = 1` in word `k`
(30_encoding.md R59). -/
def faultCycleWords (p : Params) (b : Byte) (k : Nat) : List InWord :=
  ((cycleWords p b).take (faultCycleLength p k)).modify k fun w => w ||| 0x2#4

/-- The elaboration with the counts of a `PARAM` line (30_encoding.md R58). -/
def Line.params (p : Params) : Line → Params
  | .param s h r => { p with settleCyc := s, halfCyc := h, repeatCyc := r }
  | .words _ => p
  | .reset => p
  | .idleRun _ => p
  | .stop _ => p
  | .cycle _ => p
  | .cycleFault _ _ => p

/-- The words of one line (30_encoding.md R58, R59). -/
def expandLine (p : Params) : Line → List InWord
  | .param _ _ _ => []
  | .words ws => ws.flatMap fun e => List.replicate e.2 e.1
  | .reset => [0x8#4]
  | .idleRun n => List.replicate n 0x0#4
  | .stop n => List.replicate n 0x4#4
  | .cycle b => cycleWords p b
  | .cycleFault b k => faultCycleWords p b k

/-- The words of a program, line after line, each under the counts of the last `PARAM` line before it
(30_encoding.md R58). -/
def expand (p : Params) : List Line → List InWord
  | [] => []
  | l :: rest => expandLine p l ++ expand (Line.params p l) rest

end Sys2Proof.Machine
end

