-- ==== Sys2Proof/Safety.lean ====
section
/-! DEFINITION. The terms the claims use: runs, the states reached from reset, the invariant of the reachable states
(10_state.md R32, R33), and the timeline of a controller cycle (41_sampling_fsm.md R90, R92). -/

namespace Sys2Proof.Machine

/-- `k` steps from `s` lead to `t`, without a stop on the way. -/
def Runs (k : Nat) (s t : State) : Prop := Host.Core.run Sys2Proof.core k s = .next t

/-- The environment gives the words `w 0`, ..., `w (n - 1)` in the next `n` steps, each a `CLK` cycle. -/
def Gives (s : State) (w : Nat → InWord) (n : Nat) : Prop := ∀ j < n, s.events[j]? = some (.clk (w j))

/-- The six registers of the state vector agree (10_state.md R15). -/
def SameRegisters (s t : State) : Prop :=
  s.state = t.state ∧ s.cnt = t.cnt ∧ s.rx = t.rx ∧ s.sampleQ = t.sampleQ ∧ s.posQ = t.posQ ∧ s.faultQ = t.faultQ

/-- The six registers hold their reset values (10_state.md R30). -/
def RegistersReset (s : State) : Prop :=
  s.state = 0b000#3 ∧ s.cnt = 0 ∧ s.rx = 0x00#8 ∧ s.sampleQ = 0x00#8 ∧ s.posQ = 200#8 ∧ s.faultQ = false

/-- Reached from reset: some run, under whatever the environment does, starts with the registers reset. -/
def FromReset (t : State) : Prop := ∃ s k, RegistersReset s ∧ Runs k s t

/-- The bounds on `cnt` per state, and no reserved code (10_state.md R33). -/
def CntBounds (p : Params) (s : State) : Prop :=
  match decodeCtl s.state with
  | .idle => s.cnt = 0
  | .latchLow => s.cnt ≤ p.settleCyc - 1
  | .latchHigh => s.cnt = 0
  | .enableOut => s.cnt ≤ p.settleCyc - 1
  | .transfer => s.cnt ≤ 16 * p.halfCyc + p.settleCyc - 1
  | .disableOut => s.cnt = 0
  | .report => s.cnt ≤ p.repeatCyc - 1
  | .reserved => False

/-- The invariant of the states reached from reset: the bounds and the clear flag in `IDLE` (10_state.md R33), a flag
set only on the way from an abort to `REPORT`'s exit (60_exceptions.md R112, R115), and a report pair that is a decode
(10_state.md R32). -/
structure StateInv (s : State) : Prop where
  bounds : CntBounds Config.params s
  idleClear : s.state = encodeCtl .idle → s.faultQ = false
  faultPlace : s.faultQ = true → s.state = encodeCtl .disableOut ∨ s.state = encodeCtl .report
  reportPair : s.posQ = Config.grayTable s.sampleQ

/-- The first `CLK` cycle of a controller cycle: `IDLE` as every cycle finds it. -/
def AtIdle (s : State) : Prop := s.state = encodeCtl .idle ∧ s.cnt = 0 ∧ s.faultQ = false

/-- The controller state at offset `j` of a good cycle, `0 <= j <= P` (41_sampling_fsm.md R77, R90). -/
def cycleCtl (p : Params) (j : Nat) : Ctl :=
  if j = 0 then .idle
  else if j ≤ p.settleCyc then .latchLow
  else if j = p.settleCyc + 1 then .latchHigh
  else if j ≤ 2 * p.settleCyc + 1 then .enableOut
  else if j ≤ 3 * p.settleCyc + 16 * p.halfCyc + 1 then .transfer
  else if j = 3 * p.settleCyc + 16 * p.halfCyc + 2 then .disableOut
  else if j < p.period then .report
  else .idle

/-- `cnt` at offset `j` of a good cycle (00_scope.md R14). -/
def cycleCnt (p : Params) (j : Nat) : Nat :=
  match cycleCtl p j with
  | .idle => 0
  | .latchLow => j - 1
  | .latchHigh => 0
  | .enableOut => j - (p.settleCyc + 2)
  | .transfer => j - (2 * p.settleCyc + 2)
  | .disableOut => 0
  | .report => j - (3 * p.settleCyc + 16 * p.halfCyc + 3)
  | .reserved => 0

/-- The offset of the report strobe (41_sampling_fsm.md R90). -/
def strobeOffset (p : Params) : Nat := 3 * p.settleCyc + 16 * p.halfCyc + 3

/-- The offset of the `CLK` cycle whose `MISO` level is bit `i` of the transfer (41_sampling_fsm.md R90;
42_spi_transfer.md R102). -/
def sampleOffset (p : Params) (i : Nat) : Nat := 2 * p.settleCyc + 2 + 2 * p.halfCyc * i + p.halfCyc - 1

/-- The level `f` falls at offset `j`. -/
def FallsAt (f : Nat → Bool) (j : Nat) : Prop := 1 ≤ j ∧ f (j - 1) = true ∧ f j = false

/-- The level `f` rises at offset `j`. -/
def RisesAt (f : Nat → Bool) (j : Nat) : Prop := 1 ≤ j ∧ f (j - 1) = false ∧ f j = true

/-- How many of the offsets `0`, ..., `n - 1` the level `f` is low at. -/
def lowCycles (f : Nat → Bool) (n : Nat) : Nat := ((List.range n).filter fun j => !f j).length

/-- `{b0, b1, ..., b7}`: the first bit in bit 7 (42_spi_transfer.md R103). -/
def byteOf (b : Nat → Bool) : Byte :=
  BitVec.ofBool (b 0) ++ (BitVec.ofBool (b 1) ++ (BitVec.ofBool (b 2) ++ (BitVec.ofBool (b 3) ++
    (BitVec.ofBool (b 4) ++ (BitVec.ofBool (b 5) ++ (BitVec.ofBool (b 6) ++ BitVec.ofBool (b 7)))))))

/-- The byte that the words of a controller cycle present on `MISO`, read MSB first (42_spi_transfer.md R104). -/
def presentedByte (p : Params) (w : Nat → InWord) : Byte := byteOf fun i => (w (sampleOffset p i))[0]

/-- The words of a cycle with no fault, from its `IDLE` cycle on: no reset, no stop request in `IDLE`, no bus fault
where one is read. Every other level is any (41_sampling_fsm.md R90; 60_exceptions.md R114). -/
def GoodWords (p : Params) (w : Nat → InWord) : Prop :=
  (∀ j < p.period, (w j)[3] = false) ∧ (w 0)[2] = false ∧
  ∀ j, 1 ≤ j → j ≤ 3 * p.settleCyc + 16 * p.halfCyc + 2 → (w j)[1] = false

/-- The words of a cycle whose first bus fault is at offset `k`, up to length `n`. -/
def FaultWords (k n : Nat) (w : Nat → InWord) : Prop :=
  (∀ j < n, (w j)[3] = false) ∧ (w 0)[2] = false ∧
  (∀ j, 1 ≤ j → j < k → (w j)[1] = false) ∧ (w k)[1] = true

/-- A table that keeps 40_gray_decoder.md R63 to R67. -/
structure LegalTable (T : Byte → Byte) : Prop where
  range : ∀ a, T a ≤ 127#8 ∨ T a = sentinel
  count : (allBytes.filter fun a => decide (T a ≤ 127#8)).length = 128
  injective : ∀ a b, T a ≤ 127#8 → T a = T b → a = b
  known : T 127#8 = 0#8 ∧ T 63#8 = 1#8 ∧ T 8#8 = 8#8 ∧ T 1#8 = 56#8 ∧ T 2#8 = 40#8 ∧ T 4#8 = 24#8 ∧
    T 0#8 = sentinel

/-- The Gray adjacency property: the codes of neighbouring positions differ in exactly one bit (40_gray_decoder.md
R68, without the wrap). A named property; nothing assumes it of `GRAY_TABLE` (log 17). -/
def GrayAdjacent (T : Byte → Byte) : Prop :=
  ∀ a b, T a ≤ 127#8 → T b ≤ 127#8 → (T b).toNat = (T a).toNat + 1 → ∃ i < 8, a ^^^ b = BitVec.twoPow 8 i

end Sys2Proof.Machine
end

