-- ==== Sys2Proof/Certificates/Slice0/Obligations.lean ====
section
/-! DEFINITION. The statements for the provers. Each docstring names the rule of spec/ it follows. The machine is the
one of an arbitrary elaboration (log 4, 5), so every statement holds whatever the open parameters are. -/

open Sys2Proof Sys2Proof.Config Sys2Proof.Machine

/-! ## Encodings -/

/-- Decode and encode agree on every operation (30_encoding.md section 1). -/
def Obligations.DecodeOfEncodeIsTheOperation : Prop :=
  ∀ i : Instr, i.wellFormed = true → decode (encode i).1 (encode i).2 = .ok i

/-- Every byte has at most one meaning in a format, the encoder gives the byte back, and exactly the bytes wider than
the format are rejected (30_encoding.md section 1). -/
def Obligations.EncodeOfDecodeIsTheWord : Prop :=
  ∀ (f : Format) (b : Byte),
    (∀ i, decode f b = .ok i → encode i = (f, b)) ∧ ((∃ e, decode f b = .error e) ↔ 2 ^ f.width ≤ b.toNat)

/-- Words written out from the tables of 30_encoding.md section 1. -/
def Obligations.WrittenWordsDecode : Prop :=
  decode .rom 0b01111111#8 = .ok (.decode 0x7F#8) ∧
  decode .state 0b00000001#8 = .ok .latchLow ∧
  decode .state 0b00000101#8 = .ok .disableOut ∧
  decode .state 0b00000111#8 = .ok .reserved ∧
  decode .state 0b00001000#8 = .error .notAStateCode ∧
  decode .input 0b00001000#8 = .ok (.reset 0b000#3) ∧
  decode .input 0b00000100#8 = .ok (.step true false false) ∧
  decode .input 0b00000010#8 = .ok (.step false true false) ∧
  decode .input 0b00000001#8 = .ok (.step false false true) ∧
  decode .input 0b00010000#8 = .error .notAnInputWord

/-- R52: each of the eight codes selects one operation, and no two codes the same. -/
def Obligations.StateCodeSelectsExactlyOneOperation : Prop :=
  (decode .state (0#5 ++ 0b000#3) = .ok .idle ∧ decode .state (0#5 ++ 0b001#3) = .ok .latchLow ∧
    decode .state (0#5 ++ 0b010#3) = .ok .latchHigh ∧ decode .state (0#5 ++ 0b011#3) = .ok .enableOut ∧
    decode .state (0#5 ++ 0b100#3) = .ok .transfer ∧ decode .state (0#5 ++ 0b101#3) = .ok .disableOut ∧
    decode .state (0#5 ++ 0b110#3) = .ok .report ∧ decode .state (0#5 ++ 0b111#3) = .ok .reserved) ∧
  ∀ c d : StateCode, decode .state (0#5 ++ c) = decode .state (0#5 ++ d) → c = d

/-- R53: the four bits of an INPUT word, every word legal, and the low bits of a reset word ignored. -/
def Obligations.InputWordBitsReadInPlace : Prop :=
  (∀ w : InWord, decode .input (0#4 ++ w) =
    .ok (if w[3] then .reset (w.extractLsb' 0 3) else .step (w[2]) (w[1]) (w[0]))) ∧
  ∀ (x : BitVec 3) (s : State), ∃ t, exec (.reset x) s = .next t ∧ RegistersReset t

/-! ## One step -/

/-- A step runs the operation that the next event's word decodes to; with an empty queue the word is a free one
(the queue is the model's: log 1, 2). -/
def Obligations.StepRunsTheDecodedOperation : Prop :=
  ∀ s : State,
    (∀ w rest, s.events = .clk w :: rest →
      ∃ i, decode .input (0#4 ++ w) = .ok i ∧ step s = exec i { s with events := rest }) ∧
    (∀ a rest, s.events = .romRead a :: rest →
      ∃ i, decode .rom a = .ok i ∧ step s = exec i { s with events := rest }) ∧
    (s.events = [] →
      ∃ i, decode .input (0#4 ++ Config.freeInput s.drawn) = .ok i ∧
        step s = exec i { s with drawn := s.drawn + 1 })

/-- `STEP` runs the operation that the code in `state` decodes to, under the levels of the cycle, and completes
(41_sampling_fsm.md section 1; the levels stand in the model's field `pins`: log 8). -/
def Obligations.StepOperationRunsTheStateCode : Prop :=
  ∀ (stopReq busFault miso : Bool) (s : State), ∃ i t,
    decode .state (0#5 ++ s.state) = .ok i ∧
    exec (.step stopReq busFault miso) s = exec i { s with pins := inputWord false stopReq busFault miso } ∧
    exec (.step stopReq busFault miso) s = .next t

/-- R75: each edge applies the step function once; it gives a next state for every state and word, and only `STOP_REQ`
in `IDLE` holds the machine still. -/
def Obligations.EdgeAppliesTheStepFunction : Prop :=
  ∀ (s : State) (w : InWord) (rest : List Event), s.events = .clk w :: rest → ∃ t, step s = .next t ∧
    (w[3] = true → RegistersReset t) ∧
    (w[3] = false →
      (∃ i, decode .state (0#5 ++ s.state) = .ok i ∧ exec i { s with events := rest, pins := w } = .next t) ∧
      (SameRegisters s t → s.state = 0b000#3 ∧ w[2] = true))

/-- No operation faults or refuses, and a step stops only on a stimulus that is no program of the block
(60_exceptions.md section 3). -/
def Obligations.NoConditionIsFatal : Prop :=
  (∀ (i : Instr) (s : State), ∃ t, exec i s = .next t) ∧
  ∀ s : State, (∀ e rest, s.events ≠ .illegal e :: rest) → ∃ t, step s = .next t

/-- R60: every INPUT word is legal, the two other kinds of stimulus are refused, and nothing else is (they are events of
the model's queue: log 1, 3). -/
def Obligations.OnlyIllegalStimuliAreRefused : Prop :=
  (∀ w : InWord, ∃ i, decode .input (0#4 ++ w) = .ok i) ∧
  (∀ (s : State) (e : StimulusError) (rest : List Event), s.events = .illegal e :: rest →
    step s = .refused (.illegalStimulus e)) ∧
  ∀ (s : State) (r : Refusal), step s = .refused r →
    ∃ e rest, s.events = .illegal e :: rest ∧ r = .illegalStimulus e

/-! ## The operations -/

/-- R61: `DECODE` shows the ROM word of its address and changes nothing else (the ports are the model's fields:
log 7). -/
def Obligations.DecodeReadsTheRom : Prop :=
  (∀ (a : Byte) (s : State), exec (.decode a) s = .next { s with romA := a, romD := Config.grayTable a }) ∧
  Config.grayTable 0x00#8 = 200#8 ∧ Config.grayTable 0x7F#8 = 0x00#8 ∧
  ∀ a, (Config.grayTable a ≤ 127#8 → Config.grayTable a ≠ 200#8) ∧
    (¬ Config.grayTable a ≤ 127#8 → 128#8 ≤ Config.grayTable a)

/-- R81: its code, its pseudocode for every state (the input levels stand in the model's field `pins`: log 8), and its
outputs. -/
def Obligations.IdleStartsACycleUnlessStopped : Prop :=
  decode .state 0b00000000#8 = .ok .idle ∧
  ∀ s : State,
    (s.stopReq = false → exec .idle s = .next { s with state := 0b001#3, cnt := 0 }) ∧
    (s.stopReq = true → exec .idle s = .next s) ∧
    (s.state = 0b000#3 →
      (outputs params s).load = true ∧ (outputs params s).inhibit = true ∧ (outputs params s).idle = true ∧
      (outputs params s).sclk = true ∧ (outputs params s).reportStb = false ∧ (outputs params s).faultStb = false)

/-- R82: its code, its pseudocode for every state (the input levels stand in the model's field `pins`: log 8), and its
outputs. -/
def Obligations.LatchLowHoldsLoadLow : Prop :=
  decode .state 0b00000001#8 = .ok .latchLow ∧
  ∀ s : State,
    (s.busFault = true → exec .latchLow s = .next { s with state := 0b101#3, cnt := 0, faultQ := true }) ∧
    (s.busFault = false → exec .latchLow s = .next
      (if params.settleCyc - 1 ≤ s.cnt then { s with state := 0b010#3, cnt := 0 }
       else { s with cnt := (s.cnt + 1) % 2 ^ params.cntW })) ∧
    (s.state = 0b001#3 →
      (outputs params s).load = false ∧ (outputs params s).inhibit = true ∧ (outputs params s).sclk = true)

/-- R83: its code, its pseudocode for every state (the input levels stand in the model's field `pins`: log 8), and its
outputs. -/
def Obligations.LatchHighLastsOneCycle : Prop :=
  decode .state 0b00000010#8 = .ok .latchHigh ∧
  ∀ s : State,
    (s.busFault = true → exec .latchHigh s = .next { s with state := 0b101#3, cnt := 0, faultQ := true }) ∧
    (s.busFault = false → exec .latchHigh s = .next { s with state := 0b011#3, cnt := 0 }) ∧
    (s.state = 0b010#3 →
      (outputs params s).load = true ∧ (outputs params s).inhibit = true ∧ (outputs params s).sclk = true)

/-- R84: its code, its pseudocode for every state (the input levels stand in the model's field `pins`: log 8), and its
outputs. -/
def Obligations.EnableOutClearsRxOnExit : Prop :=
  decode .state 0b00000011#8 = .ok .enableOut ∧
  ∀ s : State,
    (s.busFault = true → exec .enableOut s = .next { s with state := 0b101#3, cnt := 0, faultQ := true }) ∧
    (s.busFault = false → exec .enableOut s = .next
      (if params.settleCyc - 1 ≤ s.cnt then { s with state := 0b100#3, cnt := 0, rx := 0x00#8 }
       else { s with cnt := (s.cnt + 1) % 2 ^ params.cntW })) ∧
    (s.state = 0b011#3 →
      (outputs params s).load = true ∧ (outputs params s).inhibit = false ∧ (outputs params s).sclk = true)

/-- R85: its code, its pseudocode for every state (the input levels stand in the model's field `pins`: log 8), and its
outputs. -/
def Obligations.TransferShiftsAndExits : Prop :=
  decode .state 0b00000100#8 = .ok .transfer ∧
  ∀ s : State,
    (s.busFault = true → exec .transfer s = .next { s with state := 0b101#3, cnt := 0, faultQ := true }) ∧
    (s.busFault = false → exec .transfer s = .next
      { s with
        rx := if s.cnt < 16 * params.halfCyc ∧ s.cnt % (2 * params.halfCyc) = params.halfCyc - 1
              then s.rx.extractLsb' 0 7 ++ BitVec.ofBool s.miso else s.rx
        state := if 16 * params.halfCyc + params.settleCyc - 1 ≤ s.cnt then 0b101#3 else s.state
        cnt := if 16 * params.halfCyc + params.settleCyc - 1 ≤ s.cnt then 0 else (s.cnt + 1) % 2 ^ params.cntW }) ∧
    (s.state = 0b100#3 →
      (outputs params s).load = true ∧ (outputs params s).inhibit = false ∧ (outputs params s).mosi = true ∧
      ((outputs params s).sclk = false ↔
        s.cnt < 16 * params.halfCyc ∧ s.cnt % (2 * params.halfCyc) < params.halfCyc))

/-- R86: its code, its pseudocode for every state (the input levels stand in the model's field `pins`: log 8), and its
outputs. -/
def Obligations.DisableOutWritesTheReport : Prop :=
  decode .state 0b00000101#8 = .ok .disableOut ∧
  ∀ s : State,
    (s.faultQ = false → s.busFault = false → exec .disableOut s = .next
      { s with state := 0b110#3, cnt := 0, faultQ := false, sampleQ := s.rx, posQ := Config.grayTable s.rx }) ∧
    (s.faultQ = true ∨ s.busFault = true → exec .disableOut s = .next
      { s with state := 0b110#3, cnt := 0, faultQ := true }) ∧
    (s.state = 0b101#3 →
      (outputs params s).load = true ∧ (outputs params s).inhibit = true ∧ (outputs params s).sclk = true)

/-- R87: its code, its pseudocode for every state (the input levels stand in the model's field `pins`: log 8), and its
outputs. -/
def Obligations.ReportWaitsAndClearsTheFlag : Prop :=
  decode .state 0b00000110#8 = .ok .report ∧
  ∀ s : State,
    exec .report s = .next
      (if params.repeatCyc - 1 ≤ s.cnt then { s with state := 0b000#3, cnt := 0, faultQ := false }
       else { s with cnt := (s.cnt + 1) % 2 ^ params.cntW }) ∧
    (s.state = 0b110#3 →
      (outputs params s).load = true ∧ (outputs params s).inhibit = true ∧ (outputs params s).sclk = true ∧
      ((outputs params s).reportStb = true ↔ s.cnt = 0 ∧ s.faultQ = false) ∧
      ((outputs params s).faultStb = true ↔ s.cnt = 0 ∧ s.faultQ = true))

/-- R88: its code, its pseudocode for every state (the input levels stand in the model's field `pins`: log 8), and its
outputs. -/
def Obligations.ReservedCodeRecovers : Prop :=
  decode .state 0b00000111#8 = .ok .reserved ∧
  ∀ s : State,
    exec .reserved s = .next { s with state := 0b000#3, cnt := 0, faultQ := false } ∧
    (s.state = 0b111#3 →
      (outputs params s).load = true ∧ (outputs params s).inhibit = true ∧ (outputs params s).sclk = true ∧
      (outputs params s).idle = false ∧ (outputs params s).reportStb = false ∧ (outputs params s).faultStb = false)

/-- R123: whatever the state and the other inputs, every register takes its reset value; a longer reset loads the same
values again; the first edge without it runs `IDLE`. The ports and the queue, the model's fields, stay (log 1, 7, 8). -/
def Obligations.ResetLoadsEveryRegister : Prop :=
  ∀ (x : BitVec 3) (s : State), ∃ t,
    exec (.reset x) s = .next t ∧
    t = { s with state := 0b000#3, cnt := 0, rx := 0x00#8, sampleQ := 0x00#8, posQ := 200#8, faultQ := false,
                 pins := 1#1 ++ x } ∧
    (∀ y, exec (.reset y) t = .next { t with pins := 1#1 ++ y }) ∧
    (∀ sr b m, exec (.step sr b m) t = exec .idle { t with pins := inputWord false sr b m })

/-! ## Errors -/

/-- R112, R115: the abort, what it keeps, and the way back to `IDLE`. `pins` and `events` are the model's fields (log 1,
8); every other field but the three the rule writes is unchanged. -/
def Obligations.AbortPathRunsToIdle : Prop :=
  ∀ (s : State) (w : Nat → InWord), Gives s w (2 + params.repeatCyc) →
    (∀ j < 2 + params.repeatCyc, (w j)[3] = false) → (w 0)[1] = true →
    (s.state = 0b001#3 ∨ s.state = 0b010#3 ∨ s.state = 0b011#3 ∨ s.state = 0b100#3) →
    (∃ t, Runs 1 s t ∧
      t = { s with state := 0b101#3, cnt := 0, faultQ := true, pins := w 0, events := s.events.drop 1 } ∧
      (outputs params t).load = true ∧ (outputs params t).inhibit = true ∧ (outputs params t).sclk = true) ∧
    (∃ t, Runs 2 s t ∧ t.state = 0b110#3 ∧ t.cnt = 0 ∧ t.faultQ = true ∧
      (outputs params t).faultStb = true ∧ (outputs params t).reportStb = false ∧
      t.rx = s.rx ∧ t.sampleQ = s.sampleQ ∧ t.posQ = s.posQ) ∧
    (∀ j, 3 ≤ j → j ≤ 1 + params.repeatCyc → ∃ t, Runs j s t ∧ t.state = 0b110#3 ∧
      (outputs params t).faultStb = false ∧ (outputs params t).reportStb = false ∧
      t.rx = s.rx ∧ t.sampleQ = s.sampleQ ∧ t.posQ = s.posQ) ∧
    (∃ t, Runs (2 + params.repeatCyc) s t ∧ t.state = 0b000#3 ∧ t.cnt = 0 ∧ t.faultQ = false ∧
      t.rx = s.rx ∧ t.sampleQ = s.sampleQ ∧ t.posQ = s.posQ)

/-- R113: the cycle is marked, nothing else is written but the levels of the cycle (`pins`: log 8). -/
def Obligations.FaultInDisableOutMarksTheCycle : Prop :=
  ∀ (stopReq miso : Bool) (s : State), s.state = 0b101#3 →
    exec (.step stopReq true miso) s = .next
      { s with state := 0b110#3, cnt := 0, faultQ := true, pins := inputWord false stopReq true miso }

/-- R114: in `IDLE`, `REPORT` and 3'b111 a level of 1 on `BUS_FAULT` changes nothing but the level itself (`pins`:
log 8). -/
def Obligations.BusFaultIgnoredWhereNotRead : Prop :=
  ∀ (stopReq miso : Bool) (s : State),
    (s.state = 0b000#3 ∨ s.state = 0b110#3 ∨ s.state = 0b111#3) → ∃ t,
      exec (.step stopReq true miso) s = .next t ∧
      exec (.step stopReq false miso) s = .next { t with pins := inputWord false stopReq false miso }

/-- A bus fault after the first one of a cycle changes nothing (60_exceptions.md section 3). -/
def Obligations.LaterBusFaultsChangeNothing : Prop :=
  ∀ (stopReq miso : Bool) (s : State), s.faultQ = true → (s.state = 0b101#3 ∨ s.state = 0b110#3) → ∃ t,
    exec (.step stopReq true miso) s = .next t ∧
    exec (.step stopReq false miso) s = .next { t with pins := inputWord false stopReq false miso }

/-- R109: a sample that is no valid code is reported like any other, with `POSITION = 200` and no flag. -/
def Obligations.DecodeMissIsReportedLikeAnyValue : Prop :=
  ∀ (stopReq miso : Bool) (s : State), s.state = 0b101#3 → s.faultQ = false → Config.grayTable s.rx = 200#8 → ∃ t,
    exec (.step stopReq false miso) s = .next t ∧
    (outputs params t).position = 200#8 ∧ (outputs params t).sample = s.rx ∧ (outputs params t).reportStb = true ∧
    t.faultQ = false ∧ t.state = 0b110#3 ∧ t.cnt = 0

/-- The event codes, for every state whose report pair is a decode (60_exceptions.md section 1). -/
def Obligations.EventCodeOfTheOutputs : Prop :=
  ∀ s : State, s.posQ = Config.grayTable s.sampleQ →
    ((outputs params s).event = some .ok ↔ (outputs params s).reportStb = true ∧
      (outputs params s).position ≤ 127#8) ∧
    ((outputs params s).event = some .decodeMiss ↔
      (outputs params s).reportStb = true ∧ (outputs params s).position = 200#8) ∧
    ((outputs params s).event = some .busFault ↔ (outputs params s).faultStb = true) ∧
    ((outputs params s).event = none ↔ (outputs params s).reportStb = false ∧ (outputs params s).faultStb = false) ∧
    CycleEvent.ok.code = 0 ∧ CycleEvent.decodeMiss.code = 1 ∧ CycleEvent.busFault.code = 2

/-! ## Outputs -/

/-- R78 for all eight codes, and the three report ports in every state (41_sampling_fsm.md section 2). -/
def Obligations.LineLevelsPerState : Prop :=
  ∀ s : State,
    ((outputs params s).load = false ↔ s.state = 0b001#3) ∧
    ((outputs params s).inhibit = false ↔ s.state = 0b011#3 ∨ s.state = 0b100#3) ∧
    ((outputs params s).idle = true ↔ s.state = 0b000#3) ∧
    (outputs params s).sample = s.sampleQ ∧ (outputs params s).position = s.posQ

/-- The strobes: one of them in the first cycle of `REPORT`, none elsewhere, never both (41_sampling_fsm.md
section 2). -/
def Obligations.StrobesFireInTheFirstReportCycle : Prop :=
  ∀ s : State,
    ((outputs params s).reportStb = true ↔ s.state = 0b110#3 ∧ s.cnt = 0 ∧ s.faultQ = false) ∧
    ((outputs params s).faultStb = true ↔ s.state = 0b110#3 ∧ s.cnt = 0 ∧ s.faultQ = true) ∧
    (s.state = 0b110#3 → s.cnt = 0 → (outputs params s).reportStb = !(outputs params s).faultStb) ∧
    ((outputs params s).reportStb && (outputs params s).faultStb) = false

/-- R100, R101: `SCLK` low in the first half of each of the eight bit windows, high in the second half, in the settle
tail, in every other state and after reset; `MOSI` always high, as every bit of `DUMMY` is. -/
def Obligations.SerialWaveform : Prop :=
  ∀ s : State,
    ((outputs params s).mosi = true ∧ ∀ i < 8, dummy.getLsbD i = true) ∧
    (s.state ≠ 0b100#3 → (outputs params s).sclk = true) ∧
    (RegistersReset s → (outputs params s).sclk = true) ∧
    (s.state = 0b100#3 →
      ((outputs params s).sclk = false ↔
        s.cnt < 16 * params.halfCyc ∧ s.cnt % (2 * params.halfCyc) < params.halfCyc) ∧
      (∀ i < 8, ∀ h < params.halfCyc,
        (s.cnt = 2 * params.halfCyc * i + h → (outputs params s).sclk = false) ∧
        (s.cnt = 2 * params.halfCyc * i + params.halfCyc + h → (outputs params s).sclk = true)) ∧
      (16 * params.halfCyc ≤ s.cnt → (outputs params s).sclk = true))

/-- The outputs are a function of the six registers alone: no input, no port, no environment (00_scope.md section 4;
41_sampling_fsm.md section 2). -/
def Obligations.OutputsDependOnTheRegistersAlone : Prop :=
  ∀ s t : State, SameRegisters s t → outputs params s = outputs params t

/-- R30: the reset values, that they are a decode, and the outputs just after reset. -/
def Obligations.ResetValuesAndOutputs : Prop :=
  RegistersReset State.reset ∧ Config.grayTable 0x00#8 = 200#8 ∧
  ∀ s : State, RegistersReset s → outputs params s =
    { load := true, inhibit := true, sclk := true, mosi := true, reportStb := false, faultStb := false, idle := true,
      sample := 0x00#8, position := 0xC8#8 }

/-! ## Who writes what -/

/-- `rx` is cleared on the way into `TRANSFER`, shifted in a sample cycle, reset, and never written otherwise
(10_state.md section 1). -/
def Obligations.WritersOfRx : Prop :=
  (∀ (sr b m : Bool) (s : State), ∃ t, exec (.step sr b m) s = .next t ∧
    t.rx =
      if s.state = 0b011#3 ∧ b = false ∧ params.settleCyc - 1 ≤ s.cnt then 0x00#8
      else if s.state = 0b100#3 ∧ b = false ∧ s.cnt < 16 * params.halfCyc ∧
          s.cnt % (2 * params.halfCyc) = params.halfCyc - 1 then s.rx.extractLsb' 0 7 ++ BitVec.ofBool m
      else s.rx) ∧
  (∀ x s, ∃ t, exec (.reset x) s = .next t ∧ t.rx = 0x00#8) ∧
  ∀ a s, ∃ t, exec (.decode a) s = .next t ∧ t.rx = s.rx

/-- `sample_q` and `pos_q`, and so `SAMPLE` and `POSITION`, are written together, by `DISABLE_OUT` in a cycle without a
bus fault and by reset, and never otherwise (10_state.md section 1; 41_sampling_fsm.md section 2). -/
def Obligations.WritersOfTheReport : Prop :=
  (∀ (sr b m : Bool) (s : State), ∃ t, exec (.step sr b m) s = .next t ∧
    ((outputs params t).sample, (outputs params t).position) =
      if s.state = 0b101#3 ∧ s.faultQ = false ∧ b = false then (s.rx, Config.grayTable s.rx)
      else ((outputs params s).sample, (outputs params s).position)) ∧
  (∀ x s, ∃ t, exec (.reset x) s = .next t ∧ t.sampleQ = 0x00#8 ∧ t.posQ = 200#8) ∧
  ∀ a s, ∃ t, exec (.decode a) s = .next t ∧ t.sampleQ = s.sampleQ ∧ t.posQ = s.posQ

/-- `fault_q` is set by a bus fault in the states that read it, cleared by `REPORT`'s exit, by the reserved code and by
reset, and never written otherwise (10_state.md section 1). -/
def Obligations.WritersOfTheFlag : Prop :=
  (∀ (sr b m : Bool) (s : State), ∃ t, exec (.step sr b m) s = .next t ∧
    t.faultQ =
      if s.state = 0b000#3 then s.faultQ
      else if s.state = 0b110#3 then (if params.repeatCyc - 1 ≤ s.cnt then false else s.faultQ)
      else if s.state = 0b111#3 then false
      else s.faultQ || b) ∧
  (∀ x s, ∃ t, exec (.reset x) s = .next t ∧ t.faultQ = false) ∧
  ∀ a s, ∃ t, exec (.decode a) s = .next t ∧ t.faultQ = s.faultQ

/-- R17: a state change clears `cnt`, a timed state that stays counts up by one without wrapping, and `cnt` is 0 in the
untimed states: in every state that meets the invariant, as every state reached from reset does. -/
def Obligations.CounterCountsWithinAState : Prop :=
  (∀ s, FromReset s → StateInv s) ∧
  (∀ (sr b m : Bool) (s : State), StateInv s → ∃ t, exec (.step sr b m) s = .next t ∧
    (t.state ≠ s.state → t.cnt = 0) ∧
    (t.state = s.state → s.state ≠ 0b000#3 → t.cnt = s.cnt + 1 ∧ s.cnt + 1 < 2 ^ params.cntW) ∧
    (s.state = 0b000#3 ∨ s.state = 0b010#3 ∨ s.state = 0b101#3 → s.cnt = 0) ∧
    (t.state = 0b000#3 → t.cnt = 0) ∧ s.cnt < 2 ^ params.cntW) ∧
  ∀ x s, ∃ t, exec (.reset x) s = .next t ∧ t.cnt = 0

/-- R102: the sample cycles are the last low cycles of the eight bit windows; in them, and in no other cycle and in no
cycle with a bus fault, `rx` takes the level of `MISO`; the edge that ends a sample cycle raises `SCLK`. -/
def Obligations.SampleCyclesAreTheEightWindows : Prop :=
  (∀ t, t < 16 * params.halfCyc ∧ t % (2 * params.halfCyc) = params.halfCyc - 1 ↔
    ∃ i < 8, t = 2 * params.halfCyc * i + params.halfCyc - 1) ∧
  ∀ s : State, ∃ t, exec .transfer s = .next t ∧
    (s.busFault = false → (∃ i < 8, s.cnt = 2 * params.halfCyc * i + params.halfCyc - 1) →
      t.rx = s.rx.extractLsb' 0 7 ++ BitVec.ofBool s.miso ∧
      (s.state = 0b100#3 → (outputs params s).sclk = false ∧ (outputs params t).sclk = true)) ∧
    (s.busFault = true ∨ (¬ ∃ i < 8, s.cnt = 2 * params.halfCyc * i + params.halfCyc - 1) → t.rx = s.rx)

/-- `MISO` matters only in a sample cycle of `TRANSFER` without a bus fault (41_sampling_fsm.md section 3). -/
def Obligations.MisoReadOnlyInSampleCycles : Prop :=
  ∀ (sr b : Bool) (s : State),
    ¬ (s.state = 0b100#3 ∧ b = false ∧ isSampleCycle params s.cnt = true) → ∃ t,
      exec (.step sr b true) s = .next t ∧ exec (.step sr b false) s
        = .next { t with pins := inputWord false sr b false }

/-- R96: `STOP_REQ` is read only in `IDLE`, and there it holds the block as long as it is 1 (`pins` holds the level:
log 8). -/
def Obligations.StopIsReadOnlyInIdle : Prop :=
  (∀ (b m : Bool) (s : State), s.state ≠ 0b000#3 → ∃ t,
    exec (.step true b m) s = .next t ∧ exec (.step false b m) s
      = .next { t with pins := inputWord false false b m }) ∧
  (∀ (b m : Bool) (s : State), s.state = 0b000#3 →
    exec (.step true b m) s = .next { s with pins := inputWord false true b m } ∧
    exec (.step false b m) s = .next { s with state := 0b001#3, cnt := 0, pins := inputWord false false b m }) ∧
  ∀ (n : Nat) (s : State) (w : Nat → InWord), s.state = 0b000#3 → Gives s w n →
    (∀ j < n, (w j)[3] = false ∧ (w j)[2] = true) →
    ∃ t, Runs n s t ∧ SameRegisters s t ∧ (outputs params t).load = true ∧ (outputs params t).inhibit = true

/-! ## Invariants -/

/-- The invariant holds at reset (10_state.md section 5). -/
def Obligations.ResetMeetsTheInvariant : Prop :=
  StateInv State.reset ∧ ∀ s, RegistersReset s → StateInv s

/-- Every step keeps the invariant, from every state that meets it and under every input (10_state.md section 5). -/
def Obligations.StepKeepsTheInvariant : Prop :=
  ∀ s t : State, StateInv s → step s = .next t → StateInv t

/-- R32. -/
def Obligations.ReportPairIsADecode : Prop :=
  (∀ s, FromReset s → s.posQ = Config.grayTable s.sampleQ) ∧
  (Config.grayTable 0x00#8 = sentinel ∧ State.reset.posQ = sentinel ∧ State.reset.sampleQ = 0x00#8) ∧
  ∀ (sr b m : Bool) (s t : State), exec (.step sr b m) s = .next t →
    (t.sampleQ ≠ s.sampleQ ∨ t.posQ ≠ s.posQ) → t.sampleQ = s.rx ∧ t.posQ = Config.grayTable s.rx

/-- The bounds of every state reached from reset (10_state.md section 5, the table of R33). -/
def Obligations.ReachableStatesKeepTheBounds : Prop :=
  ∀ s, FromReset s →
    CntBounds params s ∧ s.state ≠ 0b111#3 ∧ (s.state = 0b000#3 → s.faultQ = false) ∧ s.cnt < 2 ^ params.cntW

/-- The last sentence of R33, read word by word: `cnt + 1` stays below `2^CNT_W`. In the last cycle of a state that
lasts exactly `2^CNT_W` cycles it does not (log 15); the counter still never wraps there, because the state exits. -/
def Obligations.CounterPlusOneStaysBelowItsModulus : Prop :=
  ∀ p : Params, p.structural = true → ∀ c, c ≤ 16 * p.halfCyc + p.settleCyc - 1 → c + 1 < 2 ^ p.cntW

/-- `CNT_W` is the least width that holds the three durations (00_scope.md section 3, row `CNT_W`). -/
def Obligations.CounterWidthIsTheLeast : Prop :=
  ∀ p : Params,
    (p.settleCyc ≤ 2 ^ p.cntW ∧ 16 * p.halfCyc + p.settleCyc ≤ 2 ^ p.cntW ∧ p.repeatCyc ≤ 2 ^ p.cntW) ∧
    ∀ w, p.settleCyc ≤ 2 ^ w → 16 * p.halfCyc + p.settleCyc ≤ 2 ^ w → p.repeatCyc ≤ 2 ^ w → p.cntW ≤ w

/-- R89: the exit tests with `>=` and with `=` agree in every state that meets the invariant, as every state reached
from reset does, and from any state an out-of-range count leaves its timed state at once. -/
def Obligations.ExitTestsAgreeFromReset : Prop :=
  (∀ s, FromReset s → StateInv s) ∧
  (∀ s, StateInv s →
    (s.state = 0b001#3 ∨ s.state = 0b011#3 →
      (params.settleCyc - 1 ≤ s.cnt ↔ s.cnt = params.settleCyc - 1)) ∧
    (s.state = 0b100#3 →
      (16 * params.halfCyc + params.settleCyc - 1 ≤ s.cnt ↔
        s.cnt = 16 * params.halfCyc + params.settleCyc - 1)) ∧
    (s.state = 0b110#3 → (params.repeatCyc - 1 ≤ s.cnt ↔ s.cnt = params.repeatCyc - 1))) ∧
  ∀ (sr m : Bool) (s : State),
    (s.state = 0b001#3 ∧ params.settleCyc - 1 ≤ s.cnt ∨
      s.state = 0b011#3 ∧ params.settleCyc - 1 ≤ s.cnt ∨
      s.state = 0b100#3 ∧ 16 * params.halfCyc + params.settleCyc - 1 ≤ s.cnt ∨
      s.state = 0b110#3 ∧ params.repeatCyc - 1 ≤ s.cnt) →
    ∃ t, exec (.step sr false m) s = .next t ∧ t.state ≠ s.state ∧ t.cnt = 0

/-! ## Controller cycles -/

/-- The timeline of a cycle with no fault: the state and the count at every offset, the byte read MSB first and stable
until it is decoded, and the report (41_sampling_fsm.md sections 1 and 4; 42_spi_transfer.md R104). -/
def Obligations.GoodCycleTimeline : Prop :=
  ∀ (s : State) (w : Nat → InWord), AtIdle s → Gives s w params.period → GoodWords params w →
    ∀ j ≤ params.period, ∃ t, Runs j s t ∧
      t.state = encodeCtl (cycleCtl params j) ∧ t.cnt = cycleCnt params j ∧ t.faultQ = false ∧
      (2 * params.settleCyc + 2 + 15 * params.halfCyc ≤ j → t.rx = presentedByte params w) ∧
      (j < strobeOffset params → t.sampleQ = s.sampleQ ∧ t.posQ = s.posQ) ∧
      (strobeOffset params ≤ j →
        t.sampleQ = presentedByte params w ∧ t.posQ = Config.grayTable (presentedByte params w)) ∧
      t.events = s.events.drop j

/-- R90: the line events of a cycle with no fault, as offsets from its `IDLE` cycle. -/
def Obligations.GoodCycleLineEvents : Prop :=
  ∀ (s : State) (w : Nat → InWord), AtIdle s → Gives s w params.period → GoodWords params w →
    (∀ j < params.period, ∃ t, Runs j s t ∧
      ((outputs params t).load = false ↔ 1 ≤ j ∧ j < params.settleCyc + 1) ∧
      ((outputs params t).inhibit = false ↔
        params.settleCyc + 2 ≤ j ∧ j < 3 * params.settleCyc + 16 * params.halfCyc + 2) ∧
      ((outputs params t).sclk = false ↔
        ∃ i < 8, 2 * params.settleCyc + 2 + 2 * params.halfCyc * i ≤ j ∧
          j < 2 * params.settleCyc + 2 + 2 * params.halfCyc * i + params.halfCyc) ∧
      ((outputs params t).reportStb = true ↔ j = 3 * params.settleCyc + 16 * params.halfCyc + 3) ∧
      (outputs params t).faultStb = false ∧ ((outputs params t).idle = true ↔ j = 0)) ∧
    (∀ i < 8, ∃ u v, Runs (2 * params.settleCyc + 2 + 2 * params.halfCyc * i + params.halfCyc - 1) s u ∧
      Runs (2 * params.settleCyc + 2 + 2 * params.halfCyc * i + params.halfCyc) s v ∧
      v.rx = u.rx.extractLsb' 0 7 ++
        BitVec.ofBool ((w (2 * params.settleCyc + 2 + 2 * params.halfCyc * i + params.halfCyc - 1))[0])) ∧
    ∃ t, Runs (3 * params.settleCyc + 16 * params.halfCyc + 3 + params.repeatCyc) s t ∧ (outputs params t).idle = true

/-- The edges and the pulse widths of a cycle with no fault: where each line falls and rises, and nowhere else, how long
`LOAD` and `INHIBIT` are low, and the gaps between the lines. The first three gaps are those of R91 and R129. The last
one, from the last rise of `SCLK` to the rise of `INHIBIT`, is `S + H`, as R85, R90 and R100 have it, and not the `S` of
R91 and R129; the last `S` cycles of it, after the last bit window, are the settle delay (the model's reading: log 20). -/
def Obligations.PulseWidthsOfAGoodCycle : Prop :=
  ∀ (s : State) (w : Nat → InWord), AtIdle s → Gives s w params.period → GoodWords params w →
    ∃ t : Nat → State, (∀ j < params.period, Runs j s (t j)) ∧
      lowCycles (fun j => (outputs params (t j)).load) params.period = params.settleCyc ∧
      lowCycles (fun j => (outputs params (t j)).inhibit) params.period =
        2 * params.settleCyc + 16 * params.halfCyc ∧
      ∃ loadFall loadRise inhFall inhRise : Nat, ∃ sclkFall sclkRise : Nat → Nat,
        (∀ j < params.period,
          (FallsAt (fun j => (outputs params (t j)).load) j ↔ j = loadFall) ∧
          (RisesAt (fun j => (outputs params (t j)).load) j ↔ j = loadRise) ∧
          (FallsAt (fun j => (outputs params (t j)).inhibit) j ↔ j = inhFall) ∧
          (RisesAt (fun j => (outputs params (t j)).inhibit) j ↔ j = inhRise) ∧
          (FallsAt (fun j => (outputs params (t j)).sclk) j ↔ ∃ i < 8, j = sclkFall i) ∧
          (RisesAt (fun j => (outputs params (t j)).sclk) j ↔ ∃ i < 8, j = sclkRise i)) ∧
        inhRise < params.period ∧
        loadFall = 1 ∧ loadRise = loadFall + params.settleCyc ∧ inhFall = loadRise + 1 ∧
        sclkFall 0 = inhFall + params.settleCyc ∧
        (∀ i, sclkRise i = sclkFall i + params.halfCyc ∧ sclkFall (i + 1) = sclkRise i + params.halfCyc) ∧
        inhRise = sclkFall 8 + params.settleCyc ∧ inhRise = sclkRise 7 + params.halfCyc + params.settleCyc

/-- A cycle whose first bus fault is at offset `k`: its length, its one `FAULT_STB`, and the last good report held
(41_sampling_fsm.md R92; 60_exceptions.md sections 2 and 3). -/
def Obligations.AbortedCycleLength : Prop :=
  ∀ (s : State) (w : Nat → InWord) (k len : Nat), AtIdle s → 1 ≤ k →
    k ≤ 3 * params.settleCyc + 16 * params.halfCyc + 2 →
    len = (if k ≤ 3 * params.settleCyc + 16 * params.halfCyc + 1 then k + 2 + params.repeatCyc else params.period) →
    Gives s w len → FaultWords k len w →
    (∀ j ≤ len, ∃ t, Runs j s t ∧ t.sampleQ = s.sampleQ ∧ t.posQ = s.posQ ∧
      (outputs params t).reportStb = false ∧ ((outputs params t).faultStb = true ↔ j = len - params.repeatCyc) ∧
      (t.state = 0b000#3 ↔ j = 0 ∨ j = len)) ∧
    ∃ t, Runs len s t ∧ AtIdle t

/-- R95: `N` good cycles that read the same byte give `N` equal reports, exactly `P` cycles apart. -/
def Obligations.EqualCyclesReportAlike : Prop :=
  ∀ (s : State) (w : Nat → InWord) (B : Byte) (N : Nat), AtIdle s → Gives s w (N * params.period) →
    (∀ n < N, GoodWords params (fun j => w (n * params.period + j)) ∧
      presentedByte params (fun j => w (n * params.period + j)) = B) →
    ∀ j < N * params.period, ∃ t, Runs j s t ∧
      ((outputs params t).reportStb = true ↔ ∃ n < N, j = n * params.period + strobeOffset params) ∧
      (outputs params t).faultStb = false ∧
      ((outputs params t).reportStb = true →
        (outputs params t).sample = B ∧ (outputs params t).position = Config.grayTable B)

/-- R126: from any state, the cycle after a reset edge is `IDLE`, the one after that `LATCH_LOW`, and the first report
comes `3S + 16H + 3` cycles after the `IDLE` cycle. -/
def Obligations.FirstReportAfterReset : Prop :=
  ∀ (s : State) (w : Nat → InWord), Gives s w (1 + params.period) → (w 0)[3] = true →
    GoodWords params (fun j => w (1 + j)) →
    (∃ t, Runs 1 s t ∧ RegistersReset t) ∧
    (∃ t, Runs 2 s t ∧ t.state = 0b001#3 ∧ (outputs params t).load = false) ∧
    ∀ j, 1 ≤ j → j < 1 + params.period → ∃ t, Runs j s t ∧
      ((outputs params t).reportStb = true ↔ j = 1 + 3 * params.settleCyc + 16 * params.halfCyc + 3)

/-- Whatever the inputs do, the block is back in `IDLE` within one period (41_sampling_fsm.md R93;
60_exceptions.md R118). -/
def Obligations.EveryCycleComesBackToIdle : Prop :=
  ∀ (s : State) (w : Nat → InWord), StateInv s → Gives s w params.period →
    ∃ k < params.period, ∃ t, Runs k s t ∧ t.state = 0b000#3

/-- `CYCLE B` takes exactly one controller cycle, reads `B`, reports it, and leaves the block in `IDLE`
(30_encoding.md section 3). -/
def Obligations.CycleLineReadsItsByte : Prop :=
  ∀ (s : State) (b : Byte) (rest : List Event), AtIdle s →
    s.events = (expandLine params (.cycle b)).map .clk ++ rest →
    (expandLine params (.cycle b)).length = params.period ∧
    ∃ t, Runs params.period s t ∧ AtIdle t ∧ t.rx = b ∧ t.sampleQ = b ∧ t.posQ = Config.grayTable b ∧ t.events = rest

/-- `CYCLE_FAULT B k` takes exactly one controller cycle of `L(k)` words and leaves the block in `IDLE`; it reports `B`
where the fault is ignored and holds the last report where it is read (30_encoding.md section 3). -/
def Obligations.CycleFaultLineLeavesIdle : Prop :=
  ∀ (s : State) (b : Byte) (k : Nat) (rest : List Event), AtIdle s →
    Line.wellFormed params (.cycleFault b k) = true →
    s.events = (expandLine params (.cycleFault b k)).map .clk ++ rest →
    ∃ t, Runs (expandLine params (.cycleFault b k)).length s t ∧ AtIdle t ∧ t.events = rest ∧
      (1 ≤ k ∧ k ≤ 3 * params.settleCyc + 16 * params.halfCyc + 1 →
        (expandLine params (.cycleFault b k)).length = k + 2 + params.repeatCyc) ∧
      (k = 0 ∨ 3 * params.settleCyc + 16 * params.halfCyc + 2 ≤ k →
        (expandLine params (.cycleFault b k)).length = params.period) ∧
      (1 ≤ k ∧ k ≤ 3 * params.settleCyc + 16 * params.halfCyc + 2 → t.sampleQ = s.sampleQ ∧ t.posQ = s.posQ) ∧
      (k = 0 ∨ 3 * params.settleCyc + 16 * params.halfCyc + 3 ≤ k → t.sampleQ = b ∧ t.posQ = Config.grayTable b)

/-! ## The table and the elaboration -/

/-- R63 to R67. -/
def Obligations.TableMeetsItsConstraints : Prop :=
  (∀ a, Config.grayTable a ≤ 127#8 ∨ Config.grayTable a = 200#8) ∧
  (allBytes.filter fun a => decide (Config.grayTable a ≤ 127#8)).length = 128 ∧
  (allBytes.filter fun a => decide (¬ Config.grayTable a ≤ 127#8)).length = 128 ∧
  (∀ a b, Config.grayTable a ≤ 127#8 → Config.grayTable a = Config.grayTable b → a = b) ∧
  (∀ q : Byte, q ≤ 127#8 → ∃ a, Config.grayTable a = q) ∧
  (∀ a, ¬ Config.grayTable a ≤ 127#8 → Config.grayTable a = 200#8) ∧
  Config.grayTable 127#8 = 0#8 ∧ Config.grayTable 63#8 = 1#8 ∧ Config.grayTable 8#8 = 8#8 ∧
  Config.grayTable 1#8 = 56#8 ∧ Config.grayTable 2#8 = 40#8 ∧ Config.grayTable 4#8 = 24#8 ∧
  Config.grayTable 0#8 = 200#8

/-- The model's form of the open table is exact: every permutation gives a legal table, and every legal table is given
by some permutation (40_gray_decoder.md section 2; the form is the model's: log 4). -/
def Obligations.LegalTablesAreExactlyTheModels : Prop :=
  (∀ σ : Equiv.Perm (Fin 249), LegalTable (tableOf σ)) ∧
  ∀ T : Byte → Byte, LegalTable T → ∃ σ : Equiv.Perm (Fin 249), ∀ a, tableOf σ a = T a

/-- R69, R70: bit 7 is the invalid tag, and each position has exactly one code, six of them known. -/
def Obligations.ValidTagAndUniqueCode : Prop :=
  (∀ a, (valid (Config.grayTable a) = true ↔ Config.grayTable a ≤ 127#8) ∧
    valid (Config.grayTable a) = !(Config.grayTable a)[7] ∧
    (valid (Config.grayTable a) = true → Config.grayTable a = 0#1 ++ (Config.grayTable a).extractLsb' 0 7)) ∧
  (∀ q : Byte, q ≤ 127#8 → ∃ a, Config.grayTable a = q ∧ ∀ b, Config.grayTable b = q → b = a) ∧
  (∀ b, Config.grayTable b = 0#8 ↔ b = 0x7F#8) ∧ (∀ b, Config.grayTable b = 1#8 ↔ b = 0x3F#8) ∧
  (∀ b, Config.grayTable b = 8#8 ↔ b = 0x08#8) ∧ (∀ b, Config.grayTable b = 24#8 ↔ b = 0x04#8) ∧
  (∀ b, Config.grayTable b = 40#8 ↔ b = 0x02#8) ∧ (∀ b, Config.grayTable b = 56#8 ↔ b = 0x01#8)

/-- The machine's elaboration meets the structural constraints (00_scope.md section 3, first set of R9). -/
def Obligations.ElaborationIsStructural : Prop := params.structural = true

/-- Under the contract with the part, one `SCLK` period is exactly 1 us, eight bits take 8 us, and the settle delay is
at least 1 ms, all in cycles of `F_CLK` (42_spi_transfer.md R105; 70_reset_and_hazards.md R129). -/
def Obligations.ContractGivesTheSerialRate : Prop :=
  ∀ p : Params, p.contract = true →
    2 * p.halfCyc * 1000000 = p.fClk ∧ 16 * p.halfCyc * 1000000 = 8 * p.fClk ∧ p.fClk ≤ p.settleCyc * 1000
end

