-- ==== Sys2Proof/Laws/Config.lean ====
section
/-! SUPPORT. Small facts of the elaboration: the counts, the counter's width, the shape of the table. -/

namespace Sys2Proof

theorem settleCyc_pos : 1 ≤ Config.params.settleCyc := Nat.succ_pos _
theorem halfCyc_pos : 1 ≤ Config.params.halfCyc := Nat.succ_pos _
theorem repeatCyc_pos : 1 ≤ Config.params.repeatCyc := Nat.succ_pos _

/-- The counter's width holds the longest count. -/
theorem cntSpan_le (p : Params) : p.cntSpan ≤ 2 ^ p.cntW := by
  unfold Params.cntW
  split
  · simpa using ‹p.cntSpan ≤ 1›
  · have := @Nat.lt_log2_self (p.cntSpan - 1)
    omega

theorem settleCyc_le_span (p : Params) : p.settleCyc ≤ p.cntSpan := Nat.le_max_left _ _

theorem transferCyc_le_span (p : Params) : 16 * p.halfCyc + p.settleCyc ≤ p.cntSpan :=
  (Nat.le_max_left _ _).trans (Nat.le_max_right _ _)

theorem repeatCyc_le_span (p : Params) : p.repeatCyc ≤ p.cntSpan :=
  (Nat.le_max_right _ _).trans (Nat.le_max_right _ _)

/-- A count below one of the three durations does not wrap when it is raised by one. -/
theorem succ_mod_cntW {p : Params} {c d : Nat} (hc : c < d - 1) (hd : d ≤ p.cntSpan) :
    (c + 1) % 2 ^ p.cntW = c + 1 := by
  have := cntSpan_le p
  exact Nat.mod_eq_of_lt (by omega)

/-- A known address holds its known entry, whatever the permutation. -/
theorem tableOf_known (σ : Equiv.Perm (Fin 249)) {a : Byte} {d : Nat} (h : knownEntries.lookup a.toNat = some d) :
    tableOf σ a = BitVec.ofNat 8 d := by simp [tableOf, h]

/-- An open address holds what its permuted place says. -/
theorem tableOf_open (σ : Equiv.Perm (Fin 249)) {a : Byte} (h : knownEntries.lookup a.toNat = none) :
    tableOf σ a = BitVec.ofNat 8 (openPositions.getD (σ (openRank a)).val 200) := by simp [tableOf, h]

theorem openAddrs_length : openAddrs.length = 249 := by decide +kernel
theorem openPositions_length : openPositions.length = 122 := by decide +kernel
theorem openPositions_nodup : openPositions.Nodup := List.nodup_range.filter _

/-- An address without a known entry is an open one. -/
theorem mem_openAddrs {a : Byte} (h : knownEntries.lookup a.toNat = none) : a.toNat ∈ openAddrs := by
  refine List.mem_filter.2 ⟨List.mem_range.2 a.isLt, ?_⟩
  simp only [List.lookup_eq_none_iff] at h
  simp only [Bool.not_eq_true', List.any_eq_false]
  intro e he hc
  have := h e he
  simp_all

/-- The rank of an open address is its place in the list of open addresses. -/
theorem openRank_val {a : Byte} (h : knownEntries.lookup a.toNat = none) :
    (openRank a).val = openAddrs.idxOf a.toNat := by
  have := List.idxOf_lt_length_of_mem (mem_openAddrs h)
  rw [openAddrs_length] at this
  exact Nat.mod_eq_of_lt this

/-- Two open addresses of one rank are one address. -/
theorem openRank_injective {a b : Byte} (ha : knownEntries.lookup a.toNat = none)
    (hb : knownEntries.lookup b.toNat = none) (h : openRank a = openRank b) : a = b := by
  have e : openAddrs.idxOf a.toNat = openAddrs.idxOf b.toNat := by
    rw [← openRank_val ha, ← openRank_val hb, h]
  exact BitVec.eq_of_toNat_eq ((List.idxOf_inj (mem_openAddrs ha)).1 e)

end Sys2Proof
end

