-- ==== Sys2Proof/Laws/Decode.lean ====
section
/-! SUPPORT. Small lemmas of the decoder and the encoder. -/

namespace Sys2Proof

@[simp] theorem decodeCtl_encodeCtl (c : Ctl) : decodeCtl (encodeCtl c) = c := by
  cases c <;> rfl

/-- A property of all 3-bit codes holds when it holds of the code of each controller operation. -/
theorem forall_code (P : StateCode → Prop) (h : ∀ c, P (encodeCtl c)) : ∀ c, P c := by
  have all : ∀ n : Fin 8, P (BitVec.ofFin n) := by
    intro n
    match n with
    | 0 => exact h .idle
    | 1 => exact h .latchLow
    | 2 => exact h .latchHigh
    | 3 => exact h .enableOut
    | 4 => exact h .transfer
    | 5 => exact h .disableOut
    | 6 => exact h .report
    | 7 => exact h .reserved
  exact fun c => all c.toFin

@[simp] theorem encodeCtl_decodeCtl : ∀ c : StateCode, encodeCtl (decodeCtl c) = c :=
  forall_code _ fun c => by rw [decodeCtl_encodeCtl]

theorem encodeCtl_inj {c d : Ctl} : encodeCtl c = encodeCtl d ↔ c = d :=
  ⟨fun h => by rw [← decodeCtl_encodeCtl c, h, decodeCtl_encodeCtl], fun h => by rw [h]⟩

/-- A code is the code of an operation exactly when it decodes to it. -/
theorem eq_encodeCtl {x : StateCode} {c : Ctl} : x = encodeCtl c ↔ decodeCtl x = c :=
  ⟨fun h => by rw [h, decodeCtl_encodeCtl], fun h => by rw [← h, encodeCtl_decodeCtl]⟩

@[simp] theorem decodeCtl_000 : decodeCtl 0b000#3 = .idle := rfl
@[simp] theorem decodeCtl_001 : decodeCtl 0b001#3 = .latchLow := rfl
@[simp] theorem decodeCtl_010 : decodeCtl 0b010#3 = .latchHigh := rfl
@[simp] theorem decodeCtl_011 : decodeCtl 0b011#3 = .enableOut := rfl
@[simp] theorem decodeCtl_100 : decodeCtl 0b100#3 = .transfer := rfl
@[simp] theorem decodeCtl_101 : decodeCtl 0b101#3 = .disableOut := rfl
@[simp] theorem decodeCtl_110 : decodeCtl 0b110#3 = .report := rfl
@[simp] theorem decodeCtl_111 : decodeCtl 0b111#3 = .reserved := rfl

/-- A property of all INPUT words holds when it holds of the word of every four levels. -/
theorem forall_inputWord (P : InWord → Prop) (h : ∀ r s b m, P (inputWord r s b m)) : ∀ w, P w := by
  have each : ∀ w : InWord, w = inputWord (w[3]) (w[2]) (w[1]) (w[0]) := by decide
  intro w
  rw [each w]
  exact h _ _ _ _

@[simp] theorem inputWord_rst : ∀ r s b m, (inputWord r s b m)[3] = r := by decide
@[simp] theorem inputWord_stopReq : ∀ r s b m, (inputWord r s b m)[2] = s := by decide
@[simp] theorem inputWord_busFault : ∀ r s b m, (inputWord r s b m)[1] = b := by decide
@[simp] theorem inputWord_miso : ∀ r s b m, (inputWord r s b m)[0] = m := by decide

/-- An edge with `RST = 1` decodes to `RESET`. -/
theorem decodeInput_of_rst {w : InWord} (h : w[3] = true) :
    decodeInput w = .reset (w.extractLsb' 0 3) := by simp [decodeInput, h]

/-- An edge with `RST = 0` decodes to `STEP` with its three levels. -/
theorem decodeInput_of_run {w : InWord} (h : w[3] = false) :
    decodeInput w = .step (w[2]) (w[1]) (w[0]) := by simp [decodeInput, h]

/-- The decoder reads an INPUT word, widened to a byte, as `decodeInput` does. -/
theorem decode_input (w : InWord) : decode .input (0#4 ++ w) = .ok (decodeInput w) := by
  revert w; decide

/-- The decoder reads a `STATE` code, widened to a byte, as `decodeCtl` does. -/
theorem decode_state (c : StateCode) : decode .state (0#5 ++ c) = .ok (decodeCtl c).instr := by
  revert c; decide

end Sys2Proof
end

