-- ==== Sys2Proof/Laws/State.lean ====
section
/-! SUPPORT. What each field is after each update of the state. -/

namespace Sys2Proof.Machine

section
variable (s : State) (p : Params) (c : Ctl) (w : InWord) (a : Byte) (ws : List InWord) (f : Bool)

@[simp] theorem State.goto_state : (s.goto c).state = encodeCtl c := rfl
@[simp] theorem State.goto_cnt : (s.goto c).cnt = 0 := rfl
@[simp] theorem State.goto_rx : (s.goto c).rx = s.rx := rfl
@[simp] theorem State.goto_sampleQ : (s.goto c).sampleQ = s.sampleQ := rfl
@[simp] theorem State.goto_posQ : (s.goto c).posQ = s.posQ := rfl
@[simp] theorem State.goto_faultQ : (s.goto c).faultQ = s.faultQ := rfl
@[simp] theorem State.goto_pins : (s.goto c).pins = s.pins := rfl
@[simp] theorem State.goto_romA : (s.goto c).romA = s.romA := rfl
@[simp] theorem State.goto_romD : (s.goto c).romD = s.romD := rfl
@[simp] theorem State.goto_events : (s.goto c).events = s.events := rfl
@[simp] theorem State.goto_drawn : (s.goto c).drawn = s.drawn := rfl

@[simp] theorem State.tick_state : (State.tick p s).state = s.state := rfl
@[simp] theorem State.tick_cnt : (State.tick p s).cnt = (s.cnt + 1) % 2 ^ p.cntW := rfl
@[simp] theorem State.tick_rx : (State.tick p s).rx = s.rx := rfl
@[simp] theorem State.tick_sampleQ : (State.tick p s).sampleQ = s.sampleQ := rfl
@[simp] theorem State.tick_posQ : (State.tick p s).posQ = s.posQ := rfl
@[simp] theorem State.tick_faultQ : (State.tick p s).faultQ = s.faultQ := rfl
@[simp] theorem State.tick_pins : (State.tick p s).pins = s.pins := rfl
@[simp] theorem State.tick_romA : (State.tick p s).romA = s.romA := rfl
@[simp] theorem State.tick_romD : (State.tick p s).romD = s.romD := rfl
@[simp] theorem State.tick_events : (State.tick p s).events = s.events := rfl
@[simp] theorem State.tick_drawn : (State.tick p s).drawn = s.drawn := rfl

@[simp] theorem State.raiseBusFault_state : (s.raiseBusFault).state = encodeCtl .disableOut := rfl
@[simp] theorem State.raiseBusFault_cnt : (s.raiseBusFault).cnt = 0 := rfl
@[simp] theorem State.raiseBusFault_rx : (s.raiseBusFault).rx = s.rx := rfl
@[simp] theorem State.raiseBusFault_sampleQ : (s.raiseBusFault).sampleQ = s.sampleQ := rfl
@[simp] theorem State.raiseBusFault_posQ : (s.raiseBusFault).posQ = s.posQ := rfl
@[simp] theorem State.raiseBusFault_faultQ : (s.raiseBusFault).faultQ = true := rfl
@[simp] theorem State.raiseBusFault_pins : (s.raiseBusFault).pins = s.pins := rfl
@[simp] theorem State.raiseBusFault_romA : (s.raiseBusFault).romA = s.romA := rfl
@[simp] theorem State.raiseBusFault_romD : (s.raiseBusFault).romD = s.romD := rfl
@[simp] theorem State.raiseBusFault_events : (s.raiseBusFault).events = s.events := rfl
@[simp] theorem State.raiseBusFault_drawn : (s.raiseBusFault).drawn = s.drawn := rfl

@[simp] theorem State.endCycle_state : (s.endCycle).state = encodeCtl .idle := rfl
@[simp] theorem State.endCycle_cnt : (s.endCycle).cnt = 0 := rfl
@[simp] theorem State.endCycle_rx : (s.endCycle).rx = s.rx := rfl
@[simp] theorem State.endCycle_sampleQ : (s.endCycle).sampleQ = s.sampleQ := rfl
@[simp] theorem State.endCycle_posQ : (s.endCycle).posQ = s.posQ := rfl
@[simp] theorem State.endCycle_faultQ : (s.endCycle).faultQ = false := rfl
@[simp] theorem State.endCycle_pins : (s.endCycle).pins = s.pins := rfl
@[simp] theorem State.endCycle_romA : (s.endCycle).romA = s.romA := rfl
@[simp] theorem State.endCycle_romD : (s.endCycle).romD = s.romD := rfl
@[simp] theorem State.endCycle_events : (s.endCycle).events = s.events := rfl
@[simp] theorem State.endCycle_drawn : (s.endCycle).drawn = s.drawn := rfl

@[simp] theorem State.setFault_state : (s.setFault f).state = s.state := rfl
@[simp] theorem State.setFault_cnt : (s.setFault f).cnt = s.cnt := rfl
@[simp] theorem State.setFault_rx : (s.setFault f).rx = s.rx := rfl
@[simp] theorem State.setFault_sampleQ : (s.setFault f).sampleQ = s.sampleQ := rfl
@[simp] theorem State.setFault_posQ : (s.setFault f).posQ = s.posQ := rfl
@[simp] theorem State.setFault_faultQ : (s.setFault f).faultQ = f := rfl
@[simp] theorem State.setFault_pins : (s.setFault f).pins = s.pins := rfl
@[simp] theorem State.setFault_romA : (s.setFault f).romA = s.romA := rfl
@[simp] theorem State.setFault_romD : (s.setFault f).romD = s.romD := rfl
@[simp] theorem State.setFault_events : (s.setFault f).events = s.events := rfl
@[simp] theorem State.setFault_drawn : (s.setFault f).drawn = s.drawn := rfl

@[simp] theorem State.clearRx_state : (s.clearRx).state = s.state := rfl
@[simp] theorem State.clearRx_cnt : (s.clearRx).cnt = s.cnt := rfl
@[simp] theorem State.clearRx_rx : (s.clearRx).rx = 0x00#8 := rfl
@[simp] theorem State.clearRx_sampleQ : (s.clearRx).sampleQ = s.sampleQ := rfl
@[simp] theorem State.clearRx_posQ : (s.clearRx).posQ = s.posQ := rfl
@[simp] theorem State.clearRx_faultQ : (s.clearRx).faultQ = s.faultQ := rfl
@[simp] theorem State.clearRx_pins : (s.clearRx).pins = s.pins := rfl
@[simp] theorem State.clearRx_romA : (s.clearRx).romA = s.romA := rfl
@[simp] theorem State.clearRx_romD : (s.clearRx).romD = s.romD := rfl
@[simp] theorem State.clearRx_events : (s.clearRx).events = s.events := rfl
@[simp] theorem State.clearRx_drawn : (s.clearRx).drawn = s.drawn := rfl

@[simp] theorem State.receive_state : (s.receive).state = s.state := rfl
@[simp] theorem State.receive_cnt : (s.receive).cnt = s.cnt := rfl
@[simp] theorem State.receive_rx : (s.receive).rx = shiftIn s.rx s.miso := rfl
@[simp] theorem State.receive_sampleQ : (s.receive).sampleQ = s.sampleQ := rfl
@[simp] theorem State.receive_posQ : (s.receive).posQ = s.posQ := rfl
@[simp] theorem State.receive_faultQ : (s.receive).faultQ = s.faultQ := rfl
@[simp] theorem State.receive_pins : (s.receive).pins = s.pins := rfl
@[simp] theorem State.receive_romA : (s.receive).romA = s.romA := rfl
@[simp] theorem State.receive_romD : (s.receive).romD = s.romD := rfl
@[simp] theorem State.receive_events : (s.receive).events = s.events := rfl
@[simp] theorem State.receive_drawn : (s.receive).drawn = s.drawn := rfl

@[simp] theorem State.writeReport_state : (State.writeReport p s).state = s.state := rfl
@[simp] theorem State.writeReport_cnt : (State.writeReport p s).cnt = s.cnt := rfl
@[simp] theorem State.writeReport_rx : (State.writeReport p s).rx = s.rx := rfl
@[simp] theorem State.writeReport_sampleQ : (State.writeReport p s).sampleQ = s.rx := rfl
@[simp] theorem State.writeReport_posQ : (State.writeReport p s).posQ = memRead p s.rx := rfl
@[simp] theorem State.writeReport_faultQ : (State.writeReport p s).faultQ = s.faultQ := rfl
@[simp] theorem State.writeReport_pins : (State.writeReport p s).pins = s.pins := rfl
@[simp] theorem State.writeReport_romA : (State.writeReport p s).romA = s.romA := rfl
@[simp] theorem State.writeReport_romD : (State.writeReport p s).romD = s.romD := rfl
@[simp] theorem State.writeReport_events : (State.writeReport p s).events = s.events := rfl
@[simp] theorem State.writeReport_drawn : (State.writeReport p s).drawn = s.drawn := rfl

@[simp] theorem State.resetRegisters_state : (s.resetRegisters).state = encodeCtl .idle := rfl
@[simp] theorem State.resetRegisters_cnt : (s.resetRegisters).cnt = 0 := rfl
@[simp] theorem State.resetRegisters_rx : (s.resetRegisters).rx = 0x00#8 := rfl
@[simp] theorem State.resetRegisters_sampleQ : (s.resetRegisters).sampleQ = 0x00#8 := rfl
@[simp] theorem State.resetRegisters_posQ : (s.resetRegisters).posQ = sentinel := rfl
@[simp] theorem State.resetRegisters_faultQ : (s.resetRegisters).faultQ = false := rfl
@[simp] theorem State.resetRegisters_pins : (s.resetRegisters).pins = s.pins := rfl
@[simp] theorem State.resetRegisters_romA : (s.resetRegisters).romA = s.romA := rfl
@[simp] theorem State.resetRegisters_romD : (s.resetRegisters).romD = s.romD := rfl
@[simp] theorem State.resetRegisters_events : (s.resetRegisters).events = s.events := rfl
@[simp] theorem State.resetRegisters_drawn : (s.resetRegisters).drawn = s.drawn := rfl

@[simp] theorem State.withPins_state : (s.withPins w).state = s.state := rfl
@[simp] theorem State.withPins_cnt : (s.withPins w).cnt = s.cnt := rfl
@[simp] theorem State.withPins_rx : (s.withPins w).rx = s.rx := rfl
@[simp] theorem State.withPins_sampleQ : (s.withPins w).sampleQ = s.sampleQ := rfl
@[simp] theorem State.withPins_posQ : (s.withPins w).posQ = s.posQ := rfl
@[simp] theorem State.withPins_faultQ : (s.withPins w).faultQ = s.faultQ := rfl
@[simp] theorem State.withPins_pins : (s.withPins w).pins = w := rfl
@[simp] theorem State.withPins_romA : (s.withPins w).romA = s.romA := rfl
@[simp] theorem State.withPins_romD : (s.withPins w).romD = s.romD := rfl
@[simp] theorem State.withPins_events : (s.withPins w).events = s.events := rfl
@[simp] theorem State.withPins_drawn : (s.withPins w).drawn = s.drawn := rfl

@[simp] theorem State.readRom_state : (State.readRom p s a).state = s.state := rfl
@[simp] theorem State.readRom_cnt : (State.readRom p s a).cnt = s.cnt := rfl
@[simp] theorem State.readRom_rx : (State.readRom p s a).rx = s.rx := rfl
@[simp] theorem State.readRom_sampleQ : (State.readRom p s a).sampleQ = s.sampleQ := rfl
@[simp] theorem State.readRom_posQ : (State.readRom p s a).posQ = s.posQ := rfl
@[simp] theorem State.readRom_faultQ : (State.readRom p s a).faultQ = s.faultQ := rfl
@[simp] theorem State.readRom_pins : (State.readRom p s a).pins = s.pins := rfl
@[simp] theorem State.readRom_romA : (State.readRom p s a).romA = a := rfl
@[simp] theorem State.readRom_romD : (State.readRom p s a).romD = memRead p a := rfl
@[simp] theorem State.readRom_events : (State.readRom p s a).events = s.events := rfl
@[simp] theorem State.readRom_drawn : (State.readRom p s a).drawn = s.drawn := rfl

@[simp] theorem State.feed_state : (s.feed ws).state = s.state := rfl
@[simp] theorem State.feed_cnt : (s.feed ws).cnt = s.cnt := rfl
@[simp] theorem State.feed_rx : (s.feed ws).rx = s.rx := rfl
@[simp] theorem State.feed_sampleQ : (s.feed ws).sampleQ = s.sampleQ := rfl
@[simp] theorem State.feed_posQ : (s.feed ws).posQ = s.posQ := rfl
@[simp] theorem State.feed_faultQ : (s.feed ws).faultQ = s.faultQ := rfl
@[simp] theorem State.feed_pins : (s.feed ws).pins = s.pins := rfl
@[simp] theorem State.feed_romA : (s.feed ws).romA = s.romA := rfl
@[simp] theorem State.feed_romD : (s.feed ws).romD = s.romD := rfl
@[simp] theorem State.feed_events : (s.feed ws).events = s.events ++ ws.map .clk := rfl
@[simp] theorem State.feed_drawn : (s.feed ws).drawn = s.drawn := rfl

@[simp] theorem State.withPins_stopReq : (s.withPins w).stopReq = w[2] := rfl
@[simp] theorem State.withPins_busFault : (s.withPins w).busFault = w[1] := rfl
@[simp] theorem State.withPins_miso : (s.withPins w).miso = w[0] := rfl
@[simp] theorem State.withPins_rst : (s.withPins w).rst = w[3] := rfl

end

end Sys2Proof.Machine
end

