-- ==== Sys2Proof/Laws/Ops.lean ====
section
/-! SUPPORT. For each shared operation and each rule, what it can do, said once. -/

namespace Sys2Proof.Machine

theorem atExit_iff {d cnt : Nat} : atExit d cnt = true ↔ d - 1 ≤ cnt := by simp [atExit]

theorem isSampleCycle_iff {p : Params} {t : Nat} :
    isSampleCycle p t = true ↔ t < 16 * p.halfCyc ∧ t % (2 * p.halfCyc) = p.halfCyc - 1 := by
  simp [isSampleCycle]

/-- The ROM of this machine holds its table. -/
@[simp] theorem memRead_params (a : Byte) : memRead Config.params a = Config.grayTable a := rfl

/-- The abort path writes the state, the counter and the flag, and nothing else. -/
theorem State.raiseBusFault_eq (s : State) :
    s.raiseBusFault = { s with state := encodeCtl .disableOut, cnt := 0, faultQ := true } := rfl

/-- The end of a cycle writes the state, the counter and the flag, and nothing else. -/
theorem State.endCycle_eq (s : State) :
    s.endCycle = { s with state := encodeCtl .idle, cnt := 0, faultQ := false } := rfl

/-- Fetching takes the head of the queue, or a free word where the queue is empty. -/
theorem State.fetch_cases (s : State) :
    (∃ e rest, s.events = e :: rest ∧ s.fetch = (e, { s with events := rest })) ∨
    (s.events = [] ∧ s.fetch = (.clk (Config.freeInput s.drawn), { s with drawn := s.drawn + 1 })) := by
  unfold State.fetch
  split
  · exact .inl ⟨_, _, ‹_›, rfl⟩
  · exact .inr ⟨‹_›, rfl⟩

/-- What `IDLE` can do. -/
theorem ruleIdle_cases (s : State) :
    (s.stopReq = true ∧ ruleIdle s = s) ∨ (s.stopReq = false ∧ ruleIdle s = s.goto .latchLow) := by
  unfold ruleIdle; cases s.stopReq <;> simp

/-- What `LATCH_LOW` can do. -/
theorem ruleLatchLow_cases (p : Params) (s : State) :
    (s.busFault = true ∧ ruleLatchLow p s = s.raiseBusFault) ∨
    (s.busFault = false ∧ p.settleCyc - 1 ≤ s.cnt ∧ ruleLatchLow p s = s.goto .latchHigh) ∨
    (s.busFault = false ∧ s.cnt < p.settleCyc - 1 ∧ ruleLatchLow p s = State.tick p s) := by
  by_cases h : p.settleCyc - 1 ≤ s.cnt <;> cases hb : s.busFault <;> simp [ruleLatchLow, atExit, hb, h]
  omega

/-- What `LATCH_HIGH` can do. -/
theorem ruleLatchHigh_cases (s : State) :
    (s.busFault = true ∧ ruleLatchHigh s = s.raiseBusFault) ∨
    (s.busFault = false ∧ ruleLatchHigh s = s.goto .enableOut) := by
  unfold ruleLatchHigh; cases s.busFault <;> simp

/-- What `ENABLE_OUT` can do. -/
theorem ruleEnableOut_cases (p : Params) (s : State) :
    (s.busFault = true ∧ ruleEnableOut p s = s.raiseBusFault) ∨
    (s.busFault = false ∧ p.settleCyc - 1 ≤ s.cnt ∧ ruleEnableOut p s = (s.goto .transfer).clearRx) ∨
    (s.busFault = false ∧ s.cnt < p.settleCyc - 1 ∧ ruleEnableOut p s = State.tick p s) := by
  by_cases h : p.settleCyc - 1 ≤ s.cnt <;> cases hb : s.busFault <;> simp [ruleEnableOut, atExit, hb, h]
  omega

/-- Sampling writes `rx` at most. -/
theorem sampled_eq (p : Params) (s : State) :
    sampled p s = { s with rx := if isSampleCycle p s.cnt then shiftIn s.rx s.miso else s.rx } := by
  unfold sampled; split <;> rfl

/-- What `TRANSFER` can do. -/
theorem ruleTransfer_cases (p : Params) (s : State) :
    (s.busFault = true ∧ ruleTransfer p s = s.raiseBusFault) ∨
    (s.busFault = false ∧ transferCyc p - 1 ≤ s.cnt ∧ ruleTransfer p s = (sampled p s).goto .disableOut) ∨
    (s.busFault = false ∧ s.cnt < transferCyc p - 1 ∧ ruleTransfer p s = State.tick p (sampled p s)) := by
  by_cases h : transferCyc p - 1 ≤ s.cnt <;> cases hb : s.busFault <;> simp [ruleTransfer, atExit, hb, h]
  omega

/-- What `DISABLE_OUT` can do. -/
theorem ruleDisableOut_cases (p : Params) (s : State) :
    (mergedFault s = true ∧ ruleDisableOut p s = (s.goto .report).setFault true) ∨
    (mergedFault s = false ∧ ruleDisableOut p s = ((State.writeReport p s).goto .report).setFault false) := by
  unfold ruleDisableOut; cases mergedFault s <;> simp

/-- What `REPORT` can do. -/
theorem ruleReport_cases (p : Params) (s : State) :
    (p.repeatCyc - 1 ≤ s.cnt ∧ ruleReport p s = s.endCycle) ∨
    (s.cnt < p.repeatCyc - 1 ∧ ruleReport p s = State.tick p s) := by
  by_cases h : p.repeatCyc - 1 ≤ s.cnt <;> simp [ruleReport, atExit, h]
  omega

/-- An edge with `RST = 0` runs the rule of the operation whose code `state` holds. -/
theorem ruleStep_of_code {p : Params} {c : Ctl} {s : State} (h : s.state = encodeCtl c) (sr b m : Bool) :
    ruleStep p sr b m s = ctlRule p c (s.withPins (inputWord false sr b m)) := by
  rw [ruleStep, h, decodeCtl_encodeCtl]

/-- Every state is in one of the eight controller states. -/
theorem State.code_cases (s : State) : ∃ c, s.state = encodeCtl c := ⟨decodeCtl s.state, by simp⟩

/-- No rule touches the ports of the stand-alone ROM, the input levels or the environment. -/
theorem ctlRule_frame (p : Params) (c : Ctl) (s : State) :
    (ctlRule p c s).pins = s.pins ∧ (ctlRule p c s).romA = s.romA ∧ (ctlRule p c s).romD = s.romD ∧
    (ctlRule p c s).events = s.events ∧ (ctlRule p c s).drawn = s.drawn := by
  cases c
  case idle =>
    rcases ruleIdle_cases s with ⟨-, h⟩ | ⟨-, h⟩ <;> simp [ctlRule, h]
  case latchLow =>
    rcases ruleLatchLow_cases p s with ⟨-, h⟩ | ⟨-, -, h⟩ | ⟨-, -, h⟩ <;> simp [ctlRule, h]
  case latchHigh =>
    rcases ruleLatchHigh_cases s with ⟨-, h⟩ | ⟨-, h⟩ <;> simp [ctlRule, h]
  case enableOut =>
    rcases ruleEnableOut_cases p s with ⟨-, h⟩ | ⟨-, -, h⟩ | ⟨-, -, h⟩ <;> simp [ctlRule, h]
  case transfer =>
    rcases ruleTransfer_cases p s with ⟨-, h⟩ | ⟨-, -, h⟩ | ⟨-, -, h⟩ <;> simp [ctlRule, h, sampled_eq]
  case disableOut =>
    rcases ruleDisableOut_cases p s with ⟨-, h⟩ | ⟨-, h⟩ <;> simp [ctlRule, h]
  case report =>
    rcases ruleReport_cases p s with ⟨-, h⟩ | ⟨-, h⟩ <;> simp [ctlRule, h]
  case reserved => simp [ctlRule, ruleReserved]

end Sys2Proof.Machine
end

