-- ==== Sys2Proof/Laws/PerInstr.lean ====
section
/-! SUPPORT. A family of lemmas, one per constructor of `Instr`: the encoder gives a word that fits its format. -/

namespace Sys2Proof.Laws.EncodeFits

/-- The instruction is well formed, and its word has no bit above its format's width (30_encoding.md R47). -/
def Statement (i : Instr) : Prop :=
  i.wellFormed = true ∧ (encode i).1.fits (encode i).2 = true

theorem decode (a : Byte) : Statement (.decode a) := ⟨rfl, by revert a; decide +kernel⟩
theorem idle : Statement .idle := ⟨rfl, by decide⟩
theorem latchLow : Statement .latchLow := ⟨rfl, by decide⟩
theorem latchHigh : Statement .latchHigh := ⟨rfl, by decide⟩
theorem enableOut : Statement .enableOut := ⟨rfl, by decide⟩
theorem transfer : Statement .transfer := ⟨rfl, by decide⟩
theorem disableOut : Statement .disableOut := ⟨rfl, by decide⟩
theorem report : Statement .report := ⟨rfl, by decide⟩
theorem reserved : Statement .reserved := ⟨rfl, by decide⟩
theorem reset (x : BitVec 3) : Statement (.reset x) := ⟨rfl, by revert x; decide⟩
theorem step (s b m : Bool) : Statement (.step s b m) := ⟨rfl, by revert s b m; decide⟩

end Sys2Proof.Laws.EncodeFits
end

