-- ==== Sys2Proof/Laws/Step.lean ====
section
/-! SUPPORT. What one step does for each kind of event, and how runs compose. -/

namespace Sys2Proof.Machine

/-- A `CLK` cycle runs the step function of 41_sampling_fsm.md R75. -/
theorem step_of_clk {s : State} {w : InWord} {rest : List Event} (h : s.events = .clk w :: rest) :
    step s = .next (clkEdge Config.params w { s with events := rest }) := by
  cases hr : w[3] <;>
    simp [step, State.fetch, h, Event.decoded, decodeInput, hr, exec, execReset, execStep, clkEdge]

/-- A stand-alone read runs `DECODE`. -/
theorem step_of_romRead {s : State} {a : Byte} {rest : List Event} (h : s.events = .romRead a :: rest) :
    step s = .next (State.readRom Config.params { s with events := rest } a) := by
  simp [step, State.fetch, h, Event.decoded, exec, execDecode]

/-- With an empty queue the environment gives a free word. -/
theorem step_of_nil {s : State} (h : s.events = []) :
    step s = .next (clkEdge Config.params (Config.freeInput s.drawn) { s with drawn := s.drawn + 1 }) := by
  cases hr : (Config.freeInput s.drawn)[3] <;>
    simp [step, State.fetch, h, Event.decoded, decodeInput, hr, exec, execReset, execStep, clkEdge]

/-- Every operation answers a next state: `next` is its only outcome. -/
theorem exec_next (i : Instr) (s : State) : ∃ t, exec i s = .next t := by
  cases i <;> exact ⟨_, rfl⟩

/-- A run of any machine that ends takes its first step and then the rest. -/
theorem run_succ_iff (M : Host.Core) (k : Nat) (s t : M.State) :
    M.run (k + 1) s = .next t ↔ ∃ u, M.step s = .next u ∧ M.run k u = .next t := by
  rw [Host.Core.run]
  cases M.step s <;> simp

/-- A run of no step ends where it starts. -/
theorem runs_zero {s t : State} : Runs 0 s t ↔ s = t :=
  ⟨fun h => Host.Outcome.next.inj h, fun h => by subst h; rfl⟩

/-- A longer run is one step and the rest. -/
theorem runs_succ {k : Nat} {s t : State} : Runs (k + 1) s t ↔ ∃ u, step s = .next u ∧ Runs k u t :=
  run_succ_iff Sys2Proof.core k s t

/-- Runs compose. -/
theorem runs_add {m n : Nat} {s u t : State} (h1 : Runs m s u) (h2 : Runs n u t) : Runs (m + n) s t := by
  induction m generalizing s with
  | zero => rw [runs_zero] at h1; subst h1; simpa using h2
  | succ m ih =>
    obtain ⟨v, hv, hr⟩ := runs_succ.1 h1
    rw [Nat.succ_add]
    exact runs_succ.2 ⟨v, hv, ih hr⟩

/-- A run has one end. -/
theorem runs_unique {k : Nat} {s t u : State} (h1 : Runs k s t) (h2 : Runs k s u) : t = u := by
  have h := h1.symm.trans h2
  injection h

/-- The first given word runs, and the others are still given. -/
theorem gives_step {s : State} {w : Nat → InWord} {n : Nat} (h : Gives s w (n + 1)) :
    ∃ rest, s.events = .clk (w 0) :: rest ∧
      step s = .next (clkEdge Config.params (w 0) { s with events := rest }) ∧
      ∀ t : State, t.events = rest → Gives t (fun j => w (j + 1)) n := by
  have h0 := h 0 (Nat.succ_pos n)
  match he : s.events with
  | [] => simp [he] at h0
  | e :: rest =>
    simp [he] at h0
    subst h0
    refine ⟨rest, rfl, step_of_clk he, fun t ht j hj => ?_⟩
    have := h (j + 1) (by omega)
    simpa [he, ht] using this

/-- A `CLK` edge leaves the queue as it is: only fetching takes from it. -/
@[simp] theorem clkEdge_events (p : Params) (w : InWord) (s : State) : (clkEdge p w s).events = s.events := by
  unfold clkEdge
  split
  · rfl
  · exact (ctlRule_frame p _ _).2.2.2.1

end Sys2Proof.Machine
end

