-- ==== Sys2Proof/Machine/Notation.lean ====
section
/-! DEFINITION. The text of the stimulus notation, read line by line into its abstract syntax (30_encoding.md R58). A text
is a list of characters; fields are parted by blanks, and a comment runs from `;` to the end of its line. A text outside
the notation is rejected (log 16). -/

namespace Sys2Proof.Machine

/-- Cut a text wherever `sep` holds. The pieces may be empty. -/
def cut (sep : Char → Bool) : List Char → List (List Char)
  | [] => [[]]
  | c :: rest =>
    if sep c then [] :: cut sep rest
    else match cut sep rest with
      | w :: ws => (c :: w) :: ws
      | [] => [[c]]

/-- The line without its comment. -/
def uncomment : List Char → List Char
  | [] => []
  | c :: rest => if c == ';' then [] else c :: uncomment rest

/-- The fields of a line: what stands between blanks. -/
def fields (l : List Char) : List (List Char) :=
  (cut (fun c => c == ' ' || c == '\t' || c == '\r') (uncomment l)).filter fun w => !w.isEmpty

/-- The value of a decimal digit. -/
def decDigit (c : Char) : Option Nat := if 48 ≤ c.toNat ∧ c.toNat ≤ 57 then some (c.toNat - 48) else none

/-- The value of a hexadecimal digit, in either case. -/
def hexDigit (c : Char) : Option Nat :=
  if 65 ≤ c.toNat ∧ c.toNat ≤ 70 then some (c.toNat - 55)
  else if 97 ≤ c.toNat ∧ c.toNat ≤ 102 then some (c.toNat - 87)
  else decDigit c

/-- Digits after the value `acc`, most significant first. -/
def digitsFrom (digit : Char → Option Nat) (base : Nat) : Nat → List Char → Option Nat
  | acc, [] => some acc
  | acc, c :: rest =>
    match digit c with
    | some d => digitsFrom digit base (acc * base + d) rest
    | none => none

/-- `n` and `k`: a decimal number of at least one digit; how many digits is left open, so any number of them is read
(30_encoding.md R58; DESIGN CHOICE: log 16). -/
def readDec : List Char → Option Nat
  | [] => none
  | c :: rest => digitsFrom decDigit 10 0 (c :: rest)

/-- A hexadecimal number of any number of digits, as `0x7F` (30_encoding.md R58; log 16). -/
def readHex : List Char → Option Nat
  | '0' :: 'x' :: c :: rest => digitsFrom hexDigit 16 0 (c :: rest)
  | _ => none

/-- A hexadecimal number below `2 ^ w`, as the bits of a byte or of an `INPUT` word. Only its value is bounded: how many
digits it has is left open, so `0x00F` is read as the word `0xF` and `0x8` as the byte `0x08` (30_encoding.md R58;
DESIGN CHOICE: log 16). -/
def readHexBits (w : Nat) (l : List Char) : Option (BitVec w) :=
  match readHex l with
  | some v => if v < 2 ^ w then some (BitVec.ofNat w v) else none
  | none => none

/-- The fields after `WORDS`: a word, and after it how often it is repeated, once where no count stands. -/
def readWords : List (List Char) → Option (List (InWord × Nat))
  | [] => some []
  | ('x' :: _) :: _ => none
  | w :: ('x' :: n) :: rest =>
    match readHexBits 4 w, readDec n, readWords rest with
    | some v, some k, some ws => some ((v, k) :: ws)
    | _, _, _ => none
  | w :: rest =>
    match readHexBits 4 w, readWords rest with
    | some v, some ws => some ((v, 1) :: ws)
    | _, _ => none

/-- The line of a list of fields (30_encoding.md R58). -/
def readFields : List (List Char) → Option Line
  | [['R', 'E', 'S', 'E', 'T']] => some .reset
  | [['I', 'D', 'L', 'E', '_', 'R', 'U', 'N'], n] => (readDec n).map .idleRun
  | [['S', 'T', 'O', 'P'], n] => (readDec n).map .stop
  | [['C', 'Y', 'C', 'L', 'E'], b] => (readHexBits 8 b).map .cycle
  | [['C', 'Y', 'C', 'L', 'E', '_', 'F', 'A', 'U', 'L', 'T'], b, k] =>
    match readHexBits 8 b, readDec k with
    | some v, some n => some (.cycleFault v n)
    | _, _ => none
  | [['P', 'A', 'R', 'A', 'M'], 'S' :: '=' :: s, 'H' :: '=' :: h, 'R' :: '=' :: r] =>
    match readDec s, readDec h, readDec r with
    | some a, some b, some c => some (.param a b c)
    | _, _, _ => none
  | ['W', 'O', 'R', 'D', 'S'] :: w :: rest => (readWords (w :: rest)).map .words
  | _ => none

/-- The lines of a text that has been cut into lines. A line without fields stands for nothing. -/
def readLines : List (List (List Char)) → Option (List Line)
  | [] => some []
  | [] :: rest => readLines rest
  | fs :: rest =>
    match readFields fs, readLines rest with
    | some l, some ls => some (l :: ls)
    | _, _ => none

/-- The program a text stands for, if it is one (30_encoding.md R58). -/
def readProgram (text : List Char) : Option (List Line) := readLines ((cut (· == '\n') text).map fields)

/-- Every line is one the notation admits, under the counts of the last `PARAM` line before it (30_encoding.md R59). -/
def programWellFormed (p : Params) : List Line → Bool
  | [] => true
  | l :: rest => l.wellFormed p && programWellFormed (Line.params p l) rest

/-- The INPUT words of a text: those of its program, if the text is one and every line of it is admitted
(30_encoding.md R58 to R60). -/
def assemble (p : Params) (text : List Char) : Option (List InWord) :=
  match readProgram text with
  | some ls => if programWellFormed p ls then some (expand p ls) else none
  | none => none

end Sys2Proof.Machine
end

