-- ==== Sys2Proof/Tests/Slice0.lean ====
section
/-! SUPPORT. Small tests, their expected values from spec/95_test_vectors.md and the encoding tables, and for every
statement with hypotheses a witness that meets them. -/

namespace Sys2Proof.Tests

open Sys2Proof Sys2Proof.Config Sys2Proof.Machine

/-! ## Encodings: words written out from 30_encoding.md R48 to R53 -/

theorem test_decode_rom : decode .rom 0b00111111#8 = .ok (.decode 0x3F#8) := by decide
theorem test_decode_idle : decode .state 0b000#8 = .ok .idle := by decide
theorem test_decode_latchLow : decode .state 0b001#8 = .ok .latchLow := by decide
theorem test_decode_latchHigh : decode .state 0b010#8 = .ok .latchHigh := by decide
theorem test_decode_enableOut : decode .state 0b011#8 = .ok .enableOut := by decide
theorem test_decode_transfer : decode .state 0b100#8 = .ok .transfer := by decide
theorem test_decode_disableOut : decode .state 0b101#8 = .ok .disableOut := by decide
theorem test_decode_report : decode .state 0b110#8 = .ok .report := by decide
theorem test_decode_reserved : decode .state 0b111#8 = .ok .reserved := by decide
theorem test_decode_reset : decode .input 0b1101#8 = .ok (.reset 0b101#3) := by decide
theorem test_decode_step : decode .input 0b0110#8 = .ok (.step true true false) := by decide
theorem test_encode_step : encode (.step false false true) = (.input, 0b00000001#8) := by decide
theorem test_encode_report : encode .report = (.state, 0b00000110#8) := by decide
theorem test_tableWord_reset : decodeTableWord 8 0x8 = some (.reset 0b000#3) := by decide
theorem test_tableWord_step : decodeTableWord 4 0x3 = some (.step false true true) := by decide
theorem test_tableWord_decode : decodeTableWord 8 0x7F = some (.decode 0x7F#8) := by decide

/-! ## Well-formedness: a term that each check refuses, beside one it admits -/

/-- A legal table that is cheap to evaluate: the codes 1 to 128 hold the positions in order, but for ten exchanged
ones that put the six known positions in place (40_gray_decoder.md R67). -/
def smallTable (a : Byte) : Byte :=
  if 1 ≤ a.toNat ∧ a.toNat ≤ 128 then
    BitVec.ofNat 8 (match ([(127, 0), (63, 1), (8, 8), (1, 56), (2, 40), (4, 24), (9, 126), (57, 62), (41, 7), (25, 3)] :
      List (Nat × Nat)).lookup a.toNat with
      | some q => q
      | none => a.toNat - 1)
  else sentinel

/-- The counts of the spec's vectors, `S = 2`, `H = 1`, `R = 3`, with one legal table (95_test_vectors.md). -/
def small : Params :=
  { fClk := 2000000, tRepeatMs := 1000, settleCyc := 2, halfCyc := 1, repeatCyc := 3, table := smallTable }

/-- The default elaboration at 2 MHz (70_reset_and_hazards.md R136). -/
def fullSize : Params := { small with settleCyc := 2000, repeatCyc := 2000000 }

theorem test_no_half_refused : ({ small with halfCyc := 0 } : Params).structural = false := by decide +kernel
theorem test_no_settle_refused : ({ small with settleCyc := 0 } : Params).structural = false := by decide +kernel
theorem test_no_repeat_refused : ({ small with repeatCyc := 0 } : Params).structural = false := by decide +kernel
theorem test_entry_128_refused : tableRange (fun _ => 128#8) = false := by decide +kernel
theorem test_no_valid_code_refused : tableCount (fun _ => 200#8) = false := by decide +kernel
theorem test_shared_position_refused : tableInjective (fun _ => 0#8) = false := by decide +kernel
theorem test_invalid_not_sentinel_refused : tableInvalid (fun _ => 201#8) = false := by decide +kernel
theorem test_wrong_anchor_refused : tableKnown (fun _ => 200#8) = false := by decide +kernel
theorem test_contract_refused : small.contract = false := by decide
theorem test_contract_kept : fullSize.contract = true := by decide
theorem test_wide_byte_refused : Format.state.fits 0b1000#8 = false := by decide
theorem test_late_fault_refused : Line.wellFormed small (.cycleFault 0x08#8 28) = false := by decide
theorem test_zero_param_refused : Line.wellFormed small (.param 2 0 3) = false := by decide

/-- The period and the counter width at the spec's values (00_scope.md R8; 95_test_vectors.md V-T1, V-T3). -/
theorem test_period : small.period = 28 ∧ fullSize.period = 2006019 ∧ fullSize.cntW = 21 := by decide +kernel

/-! ## One edge each (95_test_vectors.md section 4) -/

/-- A state with the given registers. -/
def regs (c : Ctl) (cnt : Nat) (f : Bool) (rx sample pos : Byte) : State :=
  { State.reset with state := encodeCtl c, cnt := cnt, faultQ := f, rx := rx, sampleQ := sample, posQ := pos }

/-- Only the registers of a state, the other fields as at reset. -/
def only (s : State) : State := { State.reset with
  state := s.state, cnt := s.cnt, faultQ := s.faultQ, rx := s.rx, sampleQ := s.sampleQ, posQ := s.posQ }

/-- V-S2. -/
theorem test_idle_stop_holds :
    only (clkEdge small 0x4#4 (regs .idle 0 false 0x7F 127 0)) = regs .idle 0 false 0x7F 127 0 := by decide
/-- V-S3. -/
theorem test_idle_ignores_fault :
    only (clkEdge small 0x2#4 (regs .idle 0 false 0x7F 127 0)) = regs .latchLow 0 false 0x7F 127 0 := by decide
/-- V-S5. -/
theorem test_latchLow_exits :
    only (clkEdge small 0x0#4 (regs .latchLow 1 false 0x00 0 200)) = regs .latchHigh 0 false 0x00 0 200 := by
  decide
/-- V-S6. -/
theorem test_latchLow_fault_beats_exit :
    only (clkEdge small 0x2#4 (regs .latchLow 1 false 0x00 0 200)) = regs .disableOut 0 true 0x00 0 200 := by
  decide
/-- V-S7. -/
theorem test_latchHigh_one_cycle :
    only (clkEdge small 0x0#4 (regs .latchHigh 0 false 0x00 0 200)) = regs .enableOut 0 false 0x00 0 200 := by
  decide
/-- V-S8. -/
theorem test_latchHigh_fault :
    only (clkEdge small 0x3#4 (regs .latchHigh 0 false 0x00 0 200)) = regs .disableOut 0 true 0x00 0 200 := by
  decide
/-- V-S9. -/
theorem test_enableOut_counts :
    only (clkEdge small 0x0#4 (regs .enableOut 0 false 0x7F 127 0)) = regs .enableOut 1 false 0x7F 127 0 := by
  decide
/-- V-S10. -/
theorem test_enableOut_clears_rx :
    only (clkEdge small 0x1#4 (regs .enableOut 1 false 0x7F 127 0)) = regs .transfer 0 false 0x00 127 0 := by
  decide
/-- V-S13. -/
theorem test_transfer_eighth_sample :
    only (clkEdge small 0x1#4 (regs .transfer 14 false 0x3F 0 200)) = regs .transfer 15 false 0x7F 0 200 := by
  decide
/-- V-S16. -/
theorem test_transfer_fault_does_not_shift :
    only (clkEdge small 0x3#4 (regs .transfer 4 false 0x03 0 200)) = regs .disableOut 0 true 0x03 0 200 := by
  decide
/-- V-S17. -/
theorem test_disableOut_reports :
    only (clkEdge small 0x0#4 (regs .disableOut 0 false 0x7F 0 200)) = regs .report 0 false 0x7F 127 0 := by
  decide
/-- V-S20. -/
theorem test_disableOut_fault_holds_report :
    only (clkEdge small 0x2#4 (regs .disableOut 0 false 0x3F 127 0)) = regs .report 0 true 0x3F 127 0 := by
  decide
/-- V-S23. -/
theorem test_report_ignores_fault :
    only (clkEdge small 0x2#4 (regs .report 0 true 0x03 127 0)) = regs .report 1 true 0x03 127 0 := by decide
/-- V-S24. -/
theorem test_report_exit_clears_flag :
    only (clkEdge small 0x0#4 (regs .report 2 true 0x03 127 0)) = regs .idle 0 false 0x03 127 0 := by decide
/-- V-S25. -/
theorem test_reserved_recovers :
    only (clkEdge small 0x0#4 (regs .reserved 5 true 0x12 0x34 0x56)) = regs .idle 0 false 0x12 0x34 0x56 := by
  decide
/-- V-S26. -/
theorem test_reset_beats_everything :
    only (clkEdge small 0x8#4 (regs .transfer 9 false 0x12 127 0)) = regs .idle 0 false 0x00 0 200 := by decide
/-- V-R2. -/
theorem test_decode_known : exec (.decode 0x3F#8) State.reset = .next { State.reset with romA := 0x3F, romD := 1 } := rfl
/-- V-R7. -/
theorem test_decode_zero_is_invalid : valid (Config.grayTable 0x00#8) = false := by decide
/-- V-S1, through `step` and a placed word. -/
theorem test_step_from_reset :
    step (State.reset.withFetchWord 4 0x0) = .next { State.reset with state := 0b001#3, pins := 0x0 } := rfl
/-- W5 and W11, through `step`: a reset word placed over a state in the middle of a report. -/
theorem test_reset_through_step :
    step ((regs .report 1 true 0x12 127 0).withFetchWord 4 0x8) = .next State.reset := rfl

/-! ## Outputs (95_test_vectors.md section 3) and the notation (section 7) -/

/-- V-O5, V-O6, V-O7. -/
theorem test_sclk_waveform :
    (outputs small (regs .transfer 0 false 0 0 200)).lines = 0b1001000#7 ∧
    (outputs small (regs .transfer 1 false 0 0 200)).lines = 0b1011000#7 ∧
    (outputs small (regs .transfer 16 false 0 0 200)).lines = 0b1011000#7 := by decide
/-- V-O9, V-O10, V-O11. -/
theorem test_strobes :
    (outputs small (regs .report 0 false 0 0 200)).lines = 0b1111100#7 ∧
    (outputs small (regs .report 0 true 0 0 200)).lines = 0b1111010#7 ∧
    (outputs small (regs .report 1 true 0 0 200)).lines = 0b1111000#7 := by decide
/-- The words of `CYCLE 0x08` and of `CYCLE_FAULT 0x04 2`. -/
theorem test_cycle_words :
    expandLine small (.cycle 0x08#8) = List.replicate 14 0#4 ++ [1#4, 1#4] ++ List.replicate 12 0#4 ∧
    expandLine small (.cycleFault 0x04#8 2) = [0#4, 0#4, 2#4, 0#4, 0#4, 0#4, 0#4] := by decide
/-- `STOP` and `WORDS` lines under a `PARAM` line, which gives no word. -/
theorem test_program_words :
    expand fullSize [.param 2 1 3, .reset, .stop 2, .words [(0x1#4, 2)], .idleRun 1] =
      [0x8#4, 0x4#4, 0x4#4, 0x1#4, 0x1#4, 0x0#4] := by decide
/-! ## Witnesses: for each statement with hypotheses, states and operands that meet them -/

/-- The reset state with `n` given words. -/
def fed (w : Nat → InWord) (n : Nat) : State := { State.reset with events := (List.range n).map fun j => .clk (w j) }

theorem gives_fed (w : Nat → InWord) (n : Nat) : Gives (fed w n) w n := by
  intro j hj; simp [fed, hj]

/-- A state with the given pins. -/
def pinned (c : Ctl) (w : InWord) : State := { State.reset with state := encodeCtl c, pins := w }

/-- Quiet words: no reset, no stop, no fault, `MISO` low. -/
def quiet : Nat → InWord := fun _ => 0x0#4

/-- Quiet words with a bus fault at offset `k`. -/
def faultAt (k : Nat) : Nat → InWord := fun j => if j = k then 0x2#4 else 0x0#4

theorem quiet_good (p : Params) : GoodWords p quiet := by simp [GoodWords, quiet]

theorem faultAt_words (k n : Nat) (hk : 1 ≤ k) : FaultWords k n (faultAt k) := by
  refine ⟨fun j _ => ?_, ?_, fun j _ hj => ?_, by simp [faultAt]⟩
  · by_cases h : j = k <;> simp [faultAt, h]
  · simp [faultAt, show (0 : Nat) ≠ k by omega]
  · simp [faultAt, show j ≠ k by omega]

theorem reset_registers : RegistersReset State.reset := ⟨rfl, rfl, rfl, rfl, rfl, rfl⟩

theorem reset_from_reset : FromReset State.reset := ⟨State.reset, 0, reset_registers, rfl⟩

theorem witness_DecodeOfEncodeIsTheOperation : (Instr.step true false true).wellFormed = true := by decide
theorem witness_EncodeOfDecodeIsTheWord :
    decode .state 0b00000111#8 = .ok .reserved ∧ 2 ^ Format.state.width ≤ (0b00001000#8).toNat := by decide
theorem witness_StateCodeSelectsExactlyOneOperation :
    decode .state (0#5 ++ 0b111#3) = decode .state (0#5 ++ 0b111#3) := rfl
theorem witness_StepRunsTheDecodedOperation :
    (fed quiet 1).events = .clk 0x0#4 :: [] ∧
    ({ State.reset with events := [.romRead 0xFF#8] } : State).events = .romRead 0xFF#8 :: [] ∧
    State.reset.events = [] := ⟨rfl, rfl, rfl⟩
theorem witness_EdgeAppliesTheStepFunction :
    (fed (fun _ => 0xF#4) 1).events = .clk 0xF#4 :: [] ∧ (0xF#4)[3] = true ∧
    (fed (fun _ => 0x4#4) 1).events = .clk 0x4#4 :: [] ∧ (0x4#4)[3] = false ∧
    SameRegisters (fed (fun _ => 0x4#4) 1) (clkEdge params 0x4#4 (fed (fun _ => 0x4#4) 0)) := by
  refine ⟨rfl, rfl, rfl, rfl, rfl, rfl, rfl, rfl, rfl, rfl⟩
theorem witness_NoConditionIsFatal : ∀ e rest, State.reset.events ≠ .illegal e :: rest := by
  intro e rest h; cases h
theorem witness_OnlyIllegalStimuliAreRefused :
    ({ State.reset with events := [.illegal .levelNotBinary] } : State).events = .illegal .levelNotBinary :: [] ∧
    step { State.reset with events := [.illegal .notInStepWithClk] } =
      .refused (.illegalStimulus .notInStepWithClk) := ⟨rfl, rfl⟩
theorem witness_DecodeReadsTheRom :
    Config.grayTable 0x7F#8 ≤ 127#8 ∧ ¬ Config.grayTable 0x00#8 ≤ 127#8 := by
  show (0#8 ≤ 127#8 ∧ ¬ 200#8 ≤ 127#8); decide
theorem witness_IdleStartsACycleUnlessStopped :
    (pinned .idle 0x0#4).stopReq = false ∧ (pinned .idle 0x4#4).stopReq = true ∧
    (pinned .idle 0x0#4).state = 0b000#3 := by decide
theorem witness_LatchLowHoldsLoadLow :
    (pinned .latchLow 0x2#4).busFault = true ∧ (pinned .latchLow 0x0#4).busFault = false ∧
    (pinned .latchLow 0x0#4).state = 0b001#3 := by decide
theorem witness_LatchHighLastsOneCycle :
    (pinned .latchHigh 0x2#4).busFault = true ∧ (pinned .latchHigh 0x0#4).busFault = false ∧
    (pinned .latchHigh 0x0#4).state = 0b010#3 := by decide
theorem witness_EnableOutClearsRxOnExit :
    (pinned .enableOut 0x2#4).busFault = true ∧ (pinned .enableOut 0x0#4).busFault = false ∧
    (pinned .enableOut 0x0#4).state = 0b011#3 := by decide
theorem witness_TransferShiftsAndExits :
    (pinned .transfer 0x2#4).busFault = true ∧ (pinned .transfer 0x1#4).busFault = false ∧
    (pinned .transfer 0x1#4).state = 0b100#3 := by decide
theorem witness_DisableOutWritesTheReport :
    ((pinned .disableOut 0x0#4).faultQ = false ∧ (pinned .disableOut 0x0#4).busFault = false) ∧
    (regs .disableOut 0 true 0 0 200).faultQ = true ∧ (pinned .disableOut 0x2#4).busFault = true ∧
    (pinned .disableOut 0x0#4).state = 0b101#3 := by decide
theorem witness_ReportWaitsAndClearsTheFlag : (pinned .report 0x0#4).state = 0b110#3 := by decide
theorem witness_ReservedCodeRecovers : (pinned .reserved 0x0#4).state = 0b111#3 := by decide

/-- One for each of the four states that abort. -/
theorem witness_AbortPathRunsToIdle (c : Ctl)
    (hc : c = .latchLow ∨ c = .latchHigh ∨ c = .enableOut ∨ c = .transfer) :
    let s : State := { fed (faultAt 0) (2 + params.repeatCyc) with state := encodeCtl c }
    Gives s (faultAt 0) (2 + params.repeatCyc) ∧ (∀ j < 2 + params.repeatCyc, (faultAt 0 j)[3] = false) ∧
    (faultAt 0 0)[1] = true ∧
    (s.state = 0b001#3 ∨ s.state = 0b010#3 ∨ s.state = 0b011#3 ∨ s.state = 0b100#3) := by
  refine ⟨gives_fed _ _, fun j _ => ?_, rfl, ?_⟩
  · by_cases h : j = 0 <;> simp [faultAt, h]
  · rcases hc with rfl | rfl | rfl | rfl <;> simp [encodeCtl]

theorem witness_FaultInDisableOutMarksTheCycle : (pinned .disableOut 0x2#4).state = 0b101#3 := by decide
theorem witness_BusFaultIgnoredWhereNotRead :
    (pinned .idle 0x0#4).state = 0b000#3 ∧ (pinned .report 0x0#4).state = 0b110#3 ∧
    (pinned .reserved 0x0#4).state = 0b111#3 := by decide
theorem witness_LaterBusFaultsChangeNothing :
    ((regs .disableOut 0 true 0 0 200).faultQ = true ∧ (regs .disableOut 0 true 0 0 200).state = 0b101#3) ∧
    (regs .report 0 true 0 0 200).faultQ = true ∧ (regs .report 0 true 0 0 200).state = 0b110#3 := by decide
theorem witness_DecodeMissIsReportedLikeAnyValue :
    (regs .disableOut 0 false 0x00 127 0).state = 0b101#3 ∧ (regs .disableOut 0 false 0x00 127 0).faultQ = false ∧
    Config.grayTable (regs .disableOut 0 false 0x00 127 0).rx = 200#8 := ⟨rfl, rfl, rfl⟩
theorem witness_EventCodeOfTheOutputs : State.reset.posQ = Config.grayTable State.reset.sampleQ := rfl
theorem witness_StrobesFireInTheFirstReportCycle :
    (regs .report 0 false 0 0 200).state = 0b110#3 ∧ (regs .report 0 false 0 0 200).cnt = 0 := by decide

/-- The last bit window and its two halves, and the settle tail. -/
theorem witness_SerialWaveform :
    (pinned .idle 0x0#4).state ≠ 0b100#3 ∧ RegistersReset State.reset ∧
    (regs .transfer (2 * params.halfCyc * 7 + (params.halfCyc - 1)) false 0 0 200).state = 0b100#3 ∧
    params.halfCyc - 1 < params.halfCyc ∧
    (regs .transfer (2 * params.halfCyc * 7 + (params.halfCyc - 1)) false 0 0 200).cnt =
      2 * params.halfCyc * 7 + (params.halfCyc - 1) ∧
    (regs .transfer (2 * params.halfCyc * 7 + params.halfCyc + 0) false 0 0 200).cnt =
      2 * params.halfCyc * 7 + params.halfCyc + 0 ∧
    16 * params.halfCyc ≤ (regs .transfer (16 * params.halfCyc) false 0 0 200).cnt := by
  refine ⟨by decide, reset_registers, rfl, ?_, rfl, rfl, Nat.le_refl _⟩
  have := halfCyc_pos
  omega

theorem witness_OutputsDependOnTheRegistersAlone :
    SameRegisters State.reset { State.reset with romA := 0x3F#8, romD := 0x01#8, drawn := 5 } :=
  ⟨rfl, rfl, rfl, rfl, rfl, rfl⟩
theorem witness_ResetValuesAndOutputs : RegistersReset State.reset := reset_registers

/-- A state that meets the invariant in each controller state but the reserved one, at the last count. -/
theorem inv_at (c : Ctl) (n : Nat) (h : CntBounds params (regs c n false 0 0 200)) :
    StateInv (regs c n false 0 0 200) :=
  ⟨h, fun _ => rfl, fun h => absurd (show false = true from h) (by decide), rfl⟩

theorem witness_CounterCountsWithinAState :
    FromReset State.reset ∧
    (StateInv (regs .idle 0 false 0 0 200) ∧ (regs .idle 0 false 0 0 200).state = 0b000#3 ∧
      (clkEdge params 0x0#4 (regs .idle 0 false 0 0 200)).state ≠ (regs .idle 0 false 0 0 200).state) ∧
    (StateInv (regs .transfer 0 false 0 0 200) ∧
      (clkEdge params 0x0#4 (regs .transfer 0 false 0 0 200)).state = (regs .transfer 0 false 0 0 200).state) ∧
    (StateInv (regs .latchHigh 0 false 0 0 200) ∧ (regs .latchHigh 0 false 0 0 200).state = 0b010#3) ∧
    (StateInv (regs .disableOut 0 false 0 0 200) ∧ (regs .disableOut 0 false 0 0 200).state = 0b101#3) ∧
    (StateInv (regs .idle 0 false 0 0 200) ∧
      (clkEdge params 0x4#4 (regs .idle 0 false 0 0 200)).state = 0b000#3) := by
  have stays : (clkEdge params 0x0#4 (regs .transfer 0 false 0 0 200)).state = (regs .transfer 0 false 0 0 200).state := by
    have h := halfCyc_pos
    have hs : (regs .transfer 0 false 0 0 200).state = encodeCtl .transfer := rfl
    rw [clkEdge, if_neg (by decide), ruleStep_of_code hs]
    show (ruleTransfer params ((regs .transfer 0 false 0 0 200).withPins
      (inputWord false false false false))).state = _
    rcases ruleTransfer_cases params ((regs .transfer 0 false 0 0 200).withPins (inputWord false false false false))
      with ⟨hb, -⟩ | ⟨-, hx, -⟩ | ⟨-, -, he⟩
    · simp at hb
    · simp [regs, transferCyc] at hx; omega
    · rw [he]; simp [sampled_eq]
  refine ⟨reset_from_reset, ⟨inv_at _ _ rfl, rfl, by decide +kernel⟩, ⟨inv_at _ _ (Nat.zero_le _), stays⟩,
    ⟨inv_at _ _ rfl, rfl⟩, ⟨inv_at _ _ rfl, rfl⟩, ⟨inv_at _ _ rfl, by decide +kernel⟩⟩

/-- The first and the last sample cycle, a fault in one, and a cycle that is none. -/
theorem witness_SampleCyclesAreTheEightWindows :
    (regs .transfer (2 * params.halfCyc * 0 + params.halfCyc - 1) false 0 0 200).busFault = false ∧
    (regs .transfer (2 * params.halfCyc * 0 + params.halfCyc - 1) false 0 0 200).state = 0b100#3 ∧
    (∃ i < 8, (regs .transfer (2 * params.halfCyc * 7 + params.halfCyc - 1) false 0 0 200).cnt =
      2 * params.halfCyc * i + params.halfCyc - 1) ∧
    (pinned .transfer 0x3#4).busFault = true ∧
    ¬ ∃ i < 8, (regs .transfer (16 * params.halfCyc) false 0 0 200).cnt =
      2 * params.halfCyc * i + params.halfCyc - 1 := by
  refine ⟨rfl, rfl, ⟨7, by omega, rfl⟩, rfl, ?_⟩
  rintro ⟨i, hi, h⟩
  have hp := halfCyc_pos
  have h1 : 2 * params.halfCyc * i ≤ 2 * params.halfCyc * 7 := Nat.mul_le_mul_left _ (by omega)
  simp only [regs] at h
  omega

theorem witness_MisoReadOnlyInSampleCycles :
    ¬ ((pinned .report 0x0#4).state = 0b100#3 ∧ false = false ∧ isSampleCycle params (pinned .report 0x0#4).cnt = true) := by
  intro h; exact absurd h.1 (by decide)
theorem witness_StopIsReadOnlyInIdle :
    (pinned .report 0x4#4).state ≠ 0b000#3 ∧ (pinned .idle 0x4#4).state = 0b000#3 ∧
    (fed (fun _ => 0x4#4) 3).state = 0b000#3 ∧ Gives (fed (fun _ => 0x4#4) 3) (fun _ => 0x4#4) 3 ∧
    ∀ j < 3, ((fun _ => 0x4#4 : Nat → InWord) j)[3] = false ∧ ((fun _ => 0x4#4 : Nat → InWord) j)[2] = true :=
  ⟨by decide, by decide, rfl, gives_fed _ _, by decide⟩
theorem witness_ResetMeetsTheInvariant : RegistersReset { State.reset with drawn := 7, pins := 0x0#4 } :=
  ⟨rfl, rfl, rfl, rfl, rfl, rfl⟩
theorem witness_StepKeepsTheInvariant :
    StateInv (fed quiet 1) ∧ step (fed quiet 1) = .next (clkEdge params 0x0#4 (fed quiet 0)) :=
  ⟨⟨rfl, fun _ => rfl, fun h => absurd h (by decide), rfl⟩, rfl⟩
theorem witness_ReportPairIsADecode :
    FromReset State.reset ∧
    exec (.step false false false) (regs .disableOut 0 false 0x7F 0 200) =
      .next (ruleStep params false false false (regs .disableOut 0 false 0x7F 0 200)) ∧
    (ruleStep params false false false (regs .disableOut 0 false 0x7F 0 200)).sampleQ ≠
      (regs .disableOut 0 false 0x7F 0 200).sampleQ :=
  ⟨reset_from_reset, rfl, by decide +kernel⟩
theorem witness_ReachableStatesKeepTheBounds : FromReset State.reset ∧ State.reset.state = 0b000#3 :=
  ⟨reset_from_reset, rfl⟩
theorem witness_CounterWidthIsTheLeast :
    small.settleCyc ≤ 2 ^ 5 ∧ 16 * small.halfCyc + small.settleCyc ≤ 2 ^ 5 ∧ small.repeatCyc ≤ 2 ^ 5 := by decide
theorem witness_ExitTestsAgreeFromReset :
    FromReset State.reset ∧
    StateInv (regs .latchLow (params.settleCyc - 1) false 0 0 200) ∧
    StateInv (regs .enableOut (params.settleCyc - 1) false 0 0 200) ∧
    StateInv (regs .transfer (16 * params.halfCyc + params.settleCyc - 1) false 0 0 200) ∧
    StateInv (regs .report (params.repeatCyc - 1) false 0 0 200) ∧
    params.settleCyc - 1 ≤ (regs .latchLow (params.settleCyc - 1) false 0 0 200).cnt ∧
    params.settleCyc - 1 ≤ (regs .enableOut (params.settleCyc + 1000) false 0 0 200).cnt ∧
    16 * params.halfCyc + params.settleCyc - 1 ≤
      (regs .transfer (16 * params.halfCyc + params.settleCyc - 1) false 0 0 200).cnt ∧
    params.repeatCyc - 1 ≤ (regs .report (params.repeatCyc - 1) false 0 0 200).cnt :=
  ⟨reset_from_reset, inv_at _ _ (Nat.le_refl _), inv_at _ _ (Nat.le_refl _), inv_at _ _ (Nat.le_refl _),
    inv_at _ _ (Nat.le_refl _), Nat.le_refl _, by simp only [regs]; omega, Nat.le_refl _, Nat.le_refl _⟩

theorem witness_GoodCycleTimeline :
    AtIdle (fed quiet params.period) ∧ Gives (fed quiet params.period) quiet params.period ∧ GoodWords params quiet :=
  ⟨⟨rfl, rfl, rfl⟩, gives_fed _ _, quiet_good _⟩
theorem witness_GoodCycleLineEvents :
    AtIdle (fed quiet params.period) ∧ Gives (fed quiet params.period) quiet params.period ∧ GoodWords params quiet :=
  witness_GoodCycleTimeline

theorem witness_PulseWidthsOfAGoodCycle :
    AtIdle (fed quiet params.period) ∧ Gives (fed quiet params.period) quiet params.period ∧ GoodWords params quiet :=
  witness_GoodCycleTimeline

/-- The first and the last offset of a fault. -/
theorem witness_AbortedCycleLength :
    (∃ len, len = (if 1 ≤ 3 * params.settleCyc + 16 * params.halfCyc + 1 then 1 + 2 + params.repeatCyc
        else params.period) ∧
      AtIdle (fed (faultAt 1) len) ∧ 1 ≤ 3 * params.settleCyc + 16 * params.halfCyc + 2 ∧
      Gives (fed (faultAt 1) len) (faultAt 1) len ∧ FaultWords 1 len (faultAt 1)) ∧
    ∃ k len, k = 3 * params.settleCyc + 16 * params.halfCyc + 2 ∧ 1 ≤ k ∧
      len = (if k ≤ 3 * params.settleCyc + 16 * params.halfCyc + 1 then k + 2 + params.repeatCyc
        else params.period) ∧
      AtIdle (fed (faultAt k) len) ∧ Gives (fed (faultAt k) len) (faultAt k) len ∧ FaultWords k len (faultAt k) :=
  ⟨⟨_, rfl, ⟨rfl, rfl, rfl⟩, by omega, gives_fed _ _, faultAt_words _ _ (Nat.le_refl _)⟩,
    ⟨_, _, rfl, by omega, rfl, ⟨rfl, rfl, rfl⟩, gives_fed _ _, faultAt_words _ _ (by omega)⟩⟩
theorem witness_EqualCyclesReportAlike :
    AtIdle (fed quiet (2 * params.period)) ∧ Gives (fed quiet (2 * params.period)) quiet (2 * params.period) ∧
    ∀ n < 2, GoodWords params (fun j => quiet (n * params.period + j)) ∧
      presentedByte params (fun j => quiet (n * params.period + j)) = 0x00#8 :=
  ⟨⟨rfl, rfl, rfl⟩, gives_fed _ _, fun _ _ => ⟨quiet_good _, by
    simp [presentedByte, byteOf, quiet]⟩⟩

/-- A reset word, then quiet ones. -/
def resetFirst : Nat → InWord := fun j => if j = 0 then 0x8#4 else 0x0#4

theorem witness_FirstReportAfterReset :
    Gives (fed resetFirst (1 + params.period)) resetFirst (1 + params.period) ∧ (resetFirst 0)[3] = true ∧
    GoodWords params (fun j => resetFirst (1 + j)) := by
  have h : (fun j => resetFirst (1 + j)) = quiet := by
    funext j; simp [resetFirst, quiet]
  exact ⟨gives_fed _ _, rfl, h ▸ quiet_good _⟩
theorem witness_EveryCycleComesBackToIdle :
    StateInv { fed quiet params.period with state := encodeCtl .latchLow } ∧
    Gives { fed quiet params.period with state := encodeCtl .latchLow } quiet params.period :=
  ⟨⟨Nat.zero_le _, fun _ => rfl, fun h => absurd h (by decide), rfl⟩, gives_fed _ _⟩
theorem witness_CycleLineReadsItsByte :
    AtIdle { State.reset with events := (expandLine params (.cycle 0x3F#8)).map .clk ++ [] } := ⟨rfl, rfl, rfl⟩

/-- A fault offset in each of the four ranges the statement tells apart: `IDLE`, `LATCH_LOW` to `TRANSFER`,
`DISABLE_OUT`, `REPORT`. -/
theorem witness_CycleFaultLineLeavesIdle :
    (∀ k, AtIdle { State.reset with events := (expandLine params (.cycleFault 0x3F#8 k)).map .clk ++ [] }) ∧
    Line.wellFormed params (.cycleFault 0x3F#8 0) = true ∧
    Line.wellFormed params (.cycleFault 0x3F#8 (3 * params.settleCyc + 16 * params.halfCyc + 1)) = true ∧
    Line.wellFormed params (.cycleFault 0x3F#8 (3 * params.settleCyc + 16 * params.halfCyc + 2)) = true ∧
    Line.wellFormed params (.cycleFault 0x3F#8 (3 * params.settleCyc + 16 * params.halfCyc + 3)) = true := by
  have := repeatCyc_pos
  have hp : params.period = 3 + 3 * params.settleCyc + 16 * params.halfCyc + params.repeatCyc := rfl
  exact ⟨fun _ => ⟨rfl, rfl, rfl⟩, decide_eq_true (Nat.zero_le (params.period - 1)), decide_eq_true (by omega),
    decide_eq_true (by omega), decide_eq_true (by omega)⟩

theorem witness_TableMeetsItsConstraints :
    Config.grayTable 0x7F#8 ≤ 127#8 ∧ Config.grayTable 0x7F#8 = Config.grayTable 0x7F#8 ∧ (127#8 : Byte) ≤ 127#8 ∧
    ¬ Config.grayTable 0x00#8 ≤ 127#8 :=
  ⟨witness_DecodeReadsTheRom.1, rfl, by decide, witness_DecodeReadsTheRom.2⟩

theorem witness_ValidTagAndUniqueCode : (127#8 : Byte) ≤ 127#8 := by decide
theorem witness_ContractGivesTheSerialRate : fullSize.contract = true := test_contract_kept

/-! ## The text of the notation, and the checks that the kernel takes longest over -/

/-- The text of program P5 and its 42 words (95_test_vectors.md section 7). -/
def linesOfP5 : List Line := [.param 2 1 3, .reset, .words [(0x0#4, 12)], .reset, .cycle 0x08#8]
theorem test_text_of_P5 :
    readProgram "PARAM S=2 H=1 R=3\nRESET\nWORDS 0x0 x12  ; the first 12 words of CYCLE 0x08\nRESET\nCYCLE 0x08".toList =
      some linesOfP5 := by decide +kernel
theorem test_words_of_P5 :
    expand small linesOfP5 = 0x8#4 :: List.replicate 12 0#4 ++ [0x8#4] ++ List.replicate 14 0#4 ++ [1#4, 1#4] ++
      List.replicate 12 0#4 := by decide +kernel
theorem test_text_lines :
    readProgram "CYCLE_FAULT 0x3f 24 ; a fault\n\nSTOP 10\nIDLE_RUN 0\nWORDS 0x1 x3 0xF".toList =
      some [.cycleFault 0x3F#8 24, .stop 10, .idleRun 0, .words [(0x1#4, 3), (0xF#4, 1)]] := by decide +kernel
/-- A byte too wide, an unknown word, a fault past the end of its cycle (R58, R59). -/
theorem test_text_refused :
    readProgram "CYCLE 0x108".toList = none ∧ readProgram "HALT".toList = none ∧
    assemble small "CYCLE_FAULT 0x08 28".toList = none := by decide +kernel
theorem test_small_is_structural : small.structural = true := by decide +kernel
theorem witness_CounterPlusOneStaysBelowItsModulus :
    small.structural = true ∧ 0 ≤ 16 * small.halfCyc + small.settleCyc - 1 :=
  ⟨test_small_is_structural, Nat.zero_le _⟩

/-- The table of `small` keeps the constraints, by the check of WellFormed. -/
theorem witness_LegalTablesAreExactlyTheModels : LegalTable small.table := by
  have h := test_small_is_structural
  simp only [Params.structural, tableLegal, tableRange, tableCount, tableInjective, tableKnown, Bool.and_eq_true,
    decide_eq_true_eq, List.all_eq_true, knownEntries, List.forall_mem_cons] at h
  obtain ⟨-, ⟨⟨⟨range, count⟩, inj⟩, -⟩, known⟩ := h
  have mem : ∀ a : Byte, a ∈ allBytes := fun a => by
    simp only [allBytes, List.mem_map, List.mem_range]
    exact ⟨a.toNat, a.isLt, by simp⟩
  have le : ∀ d : Byte, d.toNat ≤ 127 ↔ d ≤ 127#8 := fun d => by simp [BitVec.le_def]
  have same : (allBytes.filter fun a => decide (small.table a ≤ 127#8)) = validCodes small.table := by
    simp only [validCodes, le]
  have val : ∀ a, small.table a ≤ 127#8 → a ∈ validCodes small.table := fun a ha => by
    rw [← same]; exact List.mem_filter.2 ⟨mem a, by simpa using ha⟩
  refine ⟨fun a => ?_, ?_, fun a b ha hab => ?_, ?_⟩
  · have := range a (mem a)
    simp only [Bool.or_eq_true, decide_eq_true_eq, beq_iff_eq, le] at this
    exact this
  · rw [same]; simpa [nPos] using count
  · exact List.inj_on_of_nodup_map inj (val a ha) (val b (hab ▸ ha)) hab
  · simpa [sentinel] using known

end Sys2Proof.Tests
end

section
/-! PROOFS. The register file (10_state.md): what one edge can do to the six registers, said once; the invariant of the
states reached from reset; and the claims about `cnt`, about the report pair and about the reset values. -/

namespace Sys2Proof.Machine

/-! ### What the rule of a controller state can do -/

/-- The highest value of `cnt` in each controller state, one less than the cycles the state lasts (R33, R77). -/
def lastCount (p : Params) : Ctl → Nat
  | .idle => 0
  | .latchLow => p.settleCyc - 1
  | .latchHigh => 0
  | .enableOut => p.settleCyc - 1
  | .transfer => transferCyc p - 1
  | .disableOut => 0
  | .report => p.repeatCyc - 1
  | .reserved => 0

/-- The controller state after `c` in a good cycle (R77); the reserved code recovers to `IDLE` (R88). -/
def successor : Ctl → Ctl
  | .idle => .latchLow
  | .latchLow => .latchHigh
  | .latchHigh => .enableOut
  | .enableOut => .transfer
  | .transfer => .disableOut
  | .disableOut => .report
  | .report => .idle
  | .reserved => .idle

theorem successor_ne (c : Ctl) : successor c ≠ c := by cases c <;> decide

theorem successor_ne_reserved (c : Ctl) : successor c ≠ .reserved := by cases c <;> decide

/-- The table of R33 as one bound per state. -/
theorem cntBounds_iff {p : Params} {s : State} {c : Ctl} (hs : s.state = encodeCtl c) :
    CntBounds p s ↔ c ≠ .reserved ∧ s.cnt ≤ lastCount p c := by
  cases c <;> simp [CntBounds, hs, lastCount, transferCyc]

/-- No bound of R33 reaches the counter's modulus: `CNT_W` bits hold every duration. -/
theorem lastCount_lt (p : Params) (c : Ctl) : lastCount p c < 2 ^ p.cntW := by
  have hspan := cntSpan_le p
  have hpos : 0 < 2 ^ p.cntW := Nat.two_pow_pos _
  have hsettle := settleCyc_le_span p
  have htransfer := transferCyc_le_span p
  have hrepeat := repeatCyc_le_span p
  cases c <;> simp only [lastCount, transferCyc] <;> omega

/-- The next states of `s` under the rule of the controller state `c` (R81 to R88); `r` stands for what the rule leaves
in `rx`. -/
inductive RuleStep (p : Params) (c : Ctl) (s : State) : State → Prop
  /-- `IDLE` waits. -/
  | hold (idle : c = .idle) : RuleStep p c s s
  /-- A timed state goes on. -/
  | count (r : Byte) (below : s.cnt < lastCount p c) :
      RuleStep p c s { State.tick p s with rx := r }
  /-- A state up to `TRANSFER` ends without a fault. -/
  | advance (r : Byte) (disableOut : c ≠ .disableOut) (report : c ≠ .report) :
      RuleStep p c s { s.goto (successor c) with rx := r }
  /-- A bus fault ends a state on the way to `DISABLE_OUT`. -/
  | abort (fault : s.busFault = true) (disableOut : c ≠ .disableOut) : RuleStep p c s s.raiseBusFault
  /-- `DISABLE_OUT` writes the report. -/
  | writeReport (disableOut : c = .disableOut) (good : mergedFault s = false) :
      RuleStep p c s (((State.writeReport p s).goto .report).setFault false)
  /-- `DISABLE_OUT` holds the report and marks the cycle. -/
  | holdReport (disableOut : c = .disableOut) (fault : mergedFault s = true) :
      RuleStep p c s ((s.goto .report).setFault true)
  /-- `REPORT` ends, or the reserved code recovers. -/
  | finish (next : successor c = .idle) : RuleStep p c s s.endCycle

/-- The one walk through the eight rules; what a rule keeps is read off `RuleStep`. -/
theorem ctlRule_ruleStep (p : Params) (c : Ctl) (s : State) : RuleStep p c s (ctlRule p c s) := by
  cases c with
  | idle =>
    rcases ruleIdle_cases s with ⟨-, h⟩ | ⟨-, h⟩ <;> rw [ctlRule, h]
    · exact .hold rfl
    · exact .advance s.rx (by decide) (by decide)
  | latchLow =>
    rcases ruleLatchLow_cases p s with ⟨hb, h⟩ | ⟨-, -, h⟩ | ⟨-, hc, h⟩ <;> rw [ctlRule, h]
    · exact .abort hb (by decide)
    · exact .advance s.rx (by decide) (by decide)
    · exact .count s.rx hc
  | latchHigh =>
    rcases ruleLatchHigh_cases s with ⟨hb, h⟩ | ⟨-, h⟩ <;> rw [ctlRule, h]
    · exact .abort hb (by decide)
    · exact .advance s.rx (by decide) (by decide)
  | enableOut =>
    rcases ruleEnableOut_cases p s with ⟨hb, h⟩ | ⟨-, -, h⟩ | ⟨-, hc, h⟩ <;> rw [ctlRule, h]
    · exact .abort hb (by decide)
    · exact .advance 0x00#8 (by decide) (by decide)
    · exact .count s.rx hc
  | transfer =>
    rcases ruleTransfer_cases p s with ⟨hb, h⟩ | ⟨-, -, h⟩ | ⟨-, hc, h⟩ <;> rw [ctlRule, h]
    · exact .abort hb (by decide)
    · rw [sampled_eq]; exact .advance _ (by decide) (by decide)
    · rw [sampled_eq]; exact .count _ hc
  | disableOut =>
    rcases ruleDisableOut_cases p s with ⟨hf, h⟩ | ⟨hf, h⟩ <;> rw [ctlRule, h]
    · exact .holdReport rfl hf
    · exact .writeReport rfl hf
  | report =>
    rcases ruleReport_cases p s with ⟨-, h⟩ | ⟨hc, h⟩ <;> rw [ctlRule, h]
    · exact .finish rfl
    · exact .count s.rx hc
  | reserved => exact .finish rfl

section
variable {p : Params} {c : Ctl} {s t : State}

/-- Below the bound of its state, `cnt` counts up without wrapping. -/
theorem tick_cnt_of_lt (h : s.cnt < lastCount p c) : (State.tick p s).cnt = s.cnt + 1 := by
  have := lastCount_lt p c
  exact Nat.mod_eq_of_lt (by omega)

/-- R17: an edge holds `IDLE`, counts up within a timed state, or changes the state and clears `cnt`. -/
theorem RuleStep.control (h : RuleStep p c s t) (hs : s.state = encodeCtl c) :
    (c = .idle ∧ t.state = encodeCtl c ∧ t.cnt = s.cnt) ∨
    (s.cnt < lastCount p c ∧ t.state = encodeCtl c ∧ t.cnt = s.cnt + 1) ∨
    (∃ d, d ≠ c ∧ d ≠ .reserved ∧ t.state = encodeCtl d ∧ t.cnt = 0) := by
  cases h with
  | hold idle => exact .inl ⟨idle, hs, rfl⟩
  | count r below => exact .inr (.inl ⟨below, hs, tick_cnt_of_lt below⟩)
  | advance r => exact .inr (.inr ⟨successor c, successor_ne c, successor_ne_reserved c, rfl, rfl⟩)
  | abort _ hc => exact .inr (.inr ⟨.disableOut, hc.symm, by decide, rfl, rfl⟩)
  | writeReport hc | holdReport hc =>
    subst hc; exact .inr (.inr ⟨.report, by decide, by decide, rfl, rfl⟩)
  | finish next =>
    exact .inr (.inr ⟨.idle, next ▸ successor_ne c, by decide, rfl, rfl⟩)

/-- R19, R20: `DISABLE_OUT` without a fault writes both report registers; every other edge writes neither. -/
theorem RuleStep.reportPair (h : RuleStep p c s t) :
    (t.sampleQ = s.sampleQ ∧ t.posQ = s.posQ) ∨
    (c = .disableOut ∧ mergedFault s = false ∧ t.sampleQ = s.rx ∧ t.posQ = memRead p s.rx) := by
  cases h with
  | writeReport hc good => exact .inr ⟨hc, good, rfl, rfl⟩
  | hold | count | advance | abort | holdReport | finish => exact .inl ⟨rfl, rfl⟩

/-- R33: an edge keeps the bounds. -/
theorem RuleStep.keeps_cntBounds (h : RuleStep p c s t) (hs : s.state = encodeCtl c) (hb : CntBounds p s) :
    CntBounds p t := by
  obtain ⟨hc, hcnt⟩ := (cntBounds_iff hs).1 hb
  rcases h.control hs with ⟨-, ht, hn⟩ | ⟨below, ht, hn⟩ | ⟨d, -, hd, ht, hn⟩
  · exact (cntBounds_iff ht).2 ⟨hc, hn ▸ hcnt⟩
  · exact (cntBounds_iff ht).2 ⟨hc, by omega⟩
  · exact (cntBounds_iff ht).2 ⟨hd, by omega⟩

/-- R112, R115: after an edge too the flag is set only in `DISABLE_OUT` and `REPORT`. -/
theorem RuleStep.keeps_faultPlace (h : RuleStep p c s t) (hs : s.state = encodeCtl c)
    (hf : s.faultQ = true → s.state = encodeCtl .disableOut ∨ s.state = encodeCtl .report) (ht : t.faultQ = true) :
    t.state = encodeCtl .disableOut ∨ t.state = encodeCtl .report := by
  cases h with
  | hold | count => exact hf ht
  | advance r disableOut report =>
    rw [hs, encodeCtl_inj, encodeCtl_inj] at hf
    exact absurd (hf ht) (by simp [disableOut, report])
  | abort => exact .inl rfl
  | writeReport | holdReport => exact .inr rfl
  | finish => exact absurd ht (by simp)

/-- Section 5 of 10_state.md: an edge with `RST = 0` keeps the invariant. -/
theorem RuleStep.keeps_stateInv (h : RuleStep Config.params c s t) (hs : s.state = encodeCtl c) (hi : StateInv s) :
    StateInv t := by
  have place := h.keeps_faultPlace hs hi.faultPlace
  refine ⟨h.keeps_cntBounds hs hi.bounds, fun idle => ?_, place, ?_⟩
  · cases hf : t.faultQ with
    | false => rfl
    | true =>
      have := place hf
      simp [idle, encodeCtl_inj] at this
  · rcases h.reportPair with ⟨hq, hp⟩ | ⟨-, -, hq, hp⟩
    · rw [hq, hp, hi.reportPair]
    · rw [hq, hp, memRead_params]

end

/-! ### The states reached from reset -/

section
variable {s t : State}

theorem sameRegisters_withPins (s : State) (w : InWord) : SameRegisters s (s.withPins w) :=
  ⟨rfl, rfl, rfl, rfl, rfl, rfl⟩

theorem sameRegisters_readRom (p : Params) (s : State) (a : Byte) : SameRegisters s (State.readRom p s a) :=
  ⟨rfl, rfl, rfl, rfl, rfl, rfl⟩

/-- The invariant speaks of the six registers alone. -/
theorem StateInv.of_sameRegisters (hi : StateInv s) (h : SameRegisters s t) : StateInv t := by
  obtain ⟨hstate, hcnt, -, hsample, hpos, hfault⟩ := h
  obtain ⟨bounds, idleClear, faultPlace, reportPair⟩ := hi
  rw [CntBounds, hstate, hcnt] at bounds
  rw [hstate, hfault] at idleClear faultPlace
  rw [hsample, hpos] at reportPair
  exact ⟨bounds, idleClear, faultPlace, reportPair⟩

/-- The entry of address `8'h00` is one of the seven known ones: `SENTINEL` (40_gray_decoder.md R67). -/
theorem grayTable_zero : Config.grayTable 0x00#8 = sentinel := tableOf_known _ (by decide)

theorem stateInv_of_registersReset (h : RegistersReset s) : StateInv s := by
  obtain ⟨hstate, hcnt, -, hsample, hpos, hfault⟩ := h
  refine ⟨?_, fun _ => hfault, fun hf => absurd (hfault.symm.trans hf) (by decide), ?_⟩
  · exact (cntBounds_iff (c := .idle) hstate).2 ⟨by decide, by simp [hcnt]⟩
  · rw [hpos, hsample, grayTable_zero, sentinel]

theorem registersReset_ruleReset (x : BitVec 3) (s : State) : RegistersReset (ruleReset x s) :=
  ⟨rfl, rfl, rfl, rfl, rfl, rfl⟩

/-- `STEP` runs the rule of the code in `state`, with the levels of the cycle on the pins. -/
theorem ruleStep_ruleStep (p : Params) (sr b m : Bool) (s : State) :
    RuleStep p (decodeCtl s.state) (s.withPins (inputWord false sr b m)) (ruleStep p sr b m s) :=
  ctlRule_ruleStep p _ _

theorem ruleStep_keeps_stateInv (sr b m : Bool) (hi : StateInv s) : StateInv (ruleStep Config.params sr b m s) :=
  (ruleStep_ruleStep Config.params sr b m s).keeps_stateInv (by simp)
    (hi.of_sameRegisters (sameRegisters_withPins s _))

theorem clkEdge_keeps_stateInv (w : InWord) (hi : StateInv s) : StateInv (clkEdge Config.params w s) := by
  unfold clkEdge
  split
  · exact stateInv_of_registersReset (registersReset_ruleReset _ s)
  · exact ruleStep_keeps_stateInv _ _ _ hi

/-- Fetching changes the environment alone, which is no register. -/
theorem sameRegisters_fetch (s : State) : SameRegisters s s.fetch.2 := by
  rcases s.fetch_cases with ⟨e, rest, -, hf⟩ | ⟨-, hf⟩ <;> rw [hf] <;> exact ⟨rfl, rfl, rfl, rfl, rfl, rfl⟩

/-- A step that answers a next state runs, after fetching, a `CLK` edge or a stand-alone read. -/
theorem step_cases (h : step s = .next t) :
    (∃ w, t = clkEdge Config.params w s.fetch.2) ∨ ∃ a, t = State.readRom Config.params s.fetch.2 a := by
  rcases s.fetch_cases with ⟨e, rest, he, hf⟩ | ⟨he, hf⟩ <;> rw [hf]
  · cases e with
    | clk w => exact .inl ⟨w, Host.Outcome.next.inj (h.symm.trans (step_of_clk he))⟩
    | romRead a => exact .inr ⟨a, Host.Outcome.next.inj (h.symm.trans (step_of_romRead he))⟩
    | illegal e => simp [step, hf, Event.decoded] at h
  · exact .inl ⟨_, Host.Outcome.next.inj (h.symm.trans (step_of_nil he))⟩

/-- Section 5 of 10_state.md: every step keeps the invariant. -/
theorem step_keeps_stateInv (hi : StateInv s) (h : step s = .next t) : StateInv t := by
  have fetched := hi.of_sameRegisters (sameRegisters_fetch s)
  rcases step_cases h with ⟨w, rfl⟩ | ⟨a, rfl⟩
  · exact clkEdge_keeps_stateInv w fetched
  · exact fetched.of_sameRegisters (sameRegisters_readRom _ _ a)

/-- A property that every step keeps holds at the end of every run that starts with it. -/
theorem runs_keeps {P : State → Prop} (keeps : ∀ s t, P s → step s = .next t → P t) {k : Nat} (hs : P s)
    (h : Runs k s t) : P t := by
  induction k generalizing s with
  | zero => exact runs_zero.1 h ▸ hs
  | succ k ih =>
    obtain ⟨u, hu, hrest⟩ := runs_succ.1 h
    exact ih (keeps s u hs hu) hrest

/-- Every state reached from reset meets the invariant (R32, R33). -/
theorem FromReset.stateInv (h : FromReset s) : StateInv s := by
  obtain ⟨s₀, k, hreset, hruns⟩ := h
  exact runs_keeps (fun _ _ => step_keeps_stateInv) (stateInv_of_registersReset hreset) hruns

/-! ### The counter -/

/-- In a state that meets the invariant `cnt` keeps the bound of the state's code. -/
theorem StateInv.cnt_le (hi : StateInv s) {c : Ctl} (hs : s.state = encodeCtl c) :
    s.cnt ≤ lastCount Config.params c :=
  ((cntBounds_iff hs).1 hi.bounds).2

theorem StateInv.cnt_lt (hi : StateInv s) : s.cnt < 2 ^ Config.params.cntW := by
  obtain ⟨c, hs⟩ := s.code_cases
  exact (hi.cnt_le hs).trans_lt (lastCount_lt _ c)

theorem StateInv.cnt_of_untimed (hi : StateInv s)
    (h : s.state = encodeCtl .idle ∨ s.state = encodeCtl .latchHigh ∨ s.state = encodeCtl .disableOut) :
    s.cnt = 0 := by
  rcases h with h | h | h <;> exact Nat.le_zero.1 (hi.cnt_le h)

end

/-- R17 for `STEP`: a state change clears `cnt`, and outside `IDLE` a state that stays counts up without wrapping. -/
theorem ruleStep_counts (p : Params) (sr b m : Bool) (s : State) :
    ((ruleStep p sr b m s).state ≠ s.state → (ruleStep p sr b m s).cnt = 0) ∧
    ((ruleStep p sr b m s).state = s.state → s.state ≠ encodeCtl .idle →
      (ruleStep p sr b m s).cnt = s.cnt + 1 ∧ s.cnt + 1 < 2 ^ p.cntW) := by
  obtain ⟨c, hs⟩ := s.code_cases
  have rule := ruleStep_ruleStep p sr b m s
  rw [hs, decodeCtl_encodeCtl] at rule
  rw [hs, Ne, Ne, encodeCtl_inj]
  rcases rule.control hs with ⟨idle, ht, -⟩ | ⟨below, ht, hn⟩ | ⟨d, hd, -, ht, hn⟩
  · exact ⟨fun change => absurd ht change, fun _ timed => absurd idle timed⟩
  · have := lastCount_lt p c
    rw [State.withPins_cnt] at below hn
    exact ⟨fun change => absurd ht change, fun _ _ => ⟨hn, by omega⟩⟩
  · exact ⟨fun _ => hn, fun stays => absurd (encodeCtl_inj.1 (ht.symm.trans stays)) hd⟩

/-- Settles O35: every edge is one of the three moves of `RuleStep.control`, and the bounds of R33 do the rest. -/
theorem counterCountsWithinAState : Obligations.CounterCountsWithinAState := by
  refine ⟨fun _ => FromReset.stateInv, fun sr b m s hi => ?_, fun x s => ⟨ruleReset x s, rfl, rfl⟩⟩
  obtain ⟨change, stay⟩ := ruleStep_counts Config.params sr b m s
  have hi' := ruleStep_keeps_stateInv sr b m hi
  exact ⟨ruleStep Config.params sr b m s, rfl, change, stay, hi.cnt_of_untimed,
    fun idle => hi'.cnt_of_untimed (.inl idle), hi.cnt_lt⟩

/-! ### The report pair -/

/-- Settles O41: R32 is a field of the invariant, and `DISABLE_OUT` is the only writer of the pair. -/
theorem reportPairIsADecode : Obligations.ReportPairIsADecode := by
  refine ⟨fun _ h => h.stateInv.reportPair, ⟨grayTable_zero, rfl, rfl⟩, fun sr b m s t h hne => ?_⟩
  have ht : ruleStep Config.params sr b m s = t := Host.Outcome.next.inj h
  rcases ht ▸ (ruleStep_ruleStep Config.params sr b m s).reportPair with ⟨hq, hp⟩ | ⟨-, -, hq, hp⟩
  · exact (hne.elim (· hq) (· hp)).elim
  · exact ⟨hq, hp⟩

/-! ### The reset values -/

/-- A state is in the controller state whose code it holds, and in no other. -/
theorem isIn_of_code {s : State} {c : Ctl} (hs : s.state = encodeCtl c) (d : Ctl) : s.isIn d = decide (c = d) := by
  rw [State.isIn, hs, Bool.eq_iff_iff, beq_iff_eq, decide_eq_true_iff, encodeCtl_inj]

/-- The `IDLE` row of R78, with the report registers on `SAMPLE` and `POSITION` (R79). -/
theorem outputs_of_idle (p : Params) {s : State} (hs : s.state = encodeCtl .idle) :
    outputs p s =
      { load := true, inhibit := true, sclk := true, mosi := true, reportStb := false, faultStb := false,
        idle := true, sample := s.sampleQ, position := s.posQ } := by
  simp [outputs, loadLine, inhibitLine, sclkLine, mosiLine, inReportStart, isIn_of_code hs]

/-- Settles O31: the registers hold R30's values by definition, and the outputs are the `IDLE` row of R78. -/
theorem resetValuesAndOutputs : Obligations.ResetValuesAndOutputs := by
  refine ⟨⟨rfl, rfl, rfl, rfl, rfl, rfl⟩, grayTable_zero, fun s ⟨hstate, _, _, hsample, hpos, _⟩ => ?_⟩
  rw [outputs_of_idle Config.params hstate, hsample, hpos]

end Sys2Proof.Machine
end

section
/-! PROOFS. The encodings (30_encoding.md): the codes of the `STATE` format, the bits of an `INPUT` word, and the stimuli
that are refused. -/

namespace Sys2Proof

/-! ### The codes of the `STATE` format -/

/-- The encoder gives a controller operation its code. -/
theorem encode_instr (c : Ctl) : encode c.instr = (.state, ctlByte c) := by cases c <;> rfl

/-- The encoder gives back the 3-bit code that selected an operation. -/
theorem encode_instr_decodeCtl (c : StateCode) : encode (decodeCtl c).instr = (.state, 0#5 ++ c) := by
  rw [encode_instr, ctlByte, encodeCtl_decodeCtl]

/-- No two codes of the `STATE` format select the same operation (R52). -/
theorem decode_state_inj {c d : StateCode} (h : decode .state (0#5 ++ c) = decode .state (0#5 ++ d)) : c = d := by
  rw [decode_state, decode_state] at h
  have sameWord := congrArg encode (Except.ok.inj h)
  rw [encode_instr_decodeCtl, encode_instr_decodeCtl] at sameWord
  exact (BitVec.append_right_inj _).1 (Prod.mk.inj sameWord).2

/-- Settles O4: the decoder's table read at the eight codes, and the encoder as its inverse. -/
theorem stateCodeSelectsExactlyOneOperation : Obligations.StateCodeSelectsExactlyOneOperation :=
  ⟨⟨decode_state _, decode_state _, decode_state _, decode_state _, decode_state _, decode_state _, decode_state _,
    decode_state _⟩, fun _ _ => decode_state_inj⟩

end Sys2Proof

namespace Sys2Proof.Machine

/-! ### The bits of an `INPUT` word -/

/-- Settles O5: `decodeInput` reads the four bits in place, and a reset writes every register by a constant. -/
theorem inputWordBitsReadInPlace : Obligations.InputWordBitsReadInPlace :=
  ⟨decode_input, fun x s => ⟨ruleReset x s, rfl, registersReset_ruleReset x s⟩⟩

/-! ### The refused stimuli -/

/-- A stimulus that is no program of the block is refused by its name (R60). -/
theorem step_of_illegal {s : State} {e : StimulusError} {rest : List Event} (h : s.events = .illegal e :: rest) :
    step s = .refused (.illegalStimulus e) := by
  simp [step, State.fetch, h, Event.decoded]

/-- What a refused step had at the head of its queue: of the three kinds of event only one is refused, and a free word
never is. -/
theorem illegal_of_step_refused {s : State} {r : Refusal} (h : step s = .refused r) :
    ∃ e rest, s.events = .illegal e :: rest ∧ r = .illegalStimulus e := by
  match he : s.events with
  | [] => exact absurd ((step_of_nil he).symm.trans h) (by simp)
  | .clk w :: rest => exact absurd ((step_of_clk he).symm.trans h) (by simp)
  | .romRead a :: rest => exact absurd ((step_of_romRead he).symm.trans h) (by simp)
  | .illegal e :: rest => exact ⟨e, rest, rfl, Host.Outcome.refused.inj (h.symm.trans (step_of_illegal he))⟩

/-- Settles O10, by the case split over the head of the queue. -/
theorem onlyIllegalStimuliAreRefused : Obligations.OnlyIllegalStimuliAreRefused :=
  ⟨fun w => ⟨decodeInput w, decode_input w⟩, fun _ _ _ => step_of_illegal, fun _ _ => illegal_of_step_refused⟩

end Sys2Proof.Machine
end

section
/-! PROOFS. The Gray decoder ROM (40_gray_decoder.md): what an entry of the table can be, said once for every
permutation of the open addresses; the one code of each position; and the claims about `GRAY_TABLE` and `DECODE`. -/

namespace Sys2Proof

/-! ### The known and the open places of the table -/

/-- The lookup finds each known entry at its address. -/
theorem lookup_of_mem_knownEntries : ∀ e ∈ knownEntries, knownEntries.lookup (BitVec.ofNat 8 e.1).toNat = some e.2 :=
  by decide

/-- What the lookup finds is a known entry. -/
theorem mem_knownEntries_of_lookup {n d : Nat} (h : knownEntries.lookup n = some d) : (n, d) ∈ knownEntries := by
  obtain ⟨before, after, hsplit, -⟩ := List.lookup_eq_some_iff.1 h
  simp [hsplit]

/-- No two of the seven known entries hold the same word. -/
theorem knownEntries_word_inj :
    ∀ e ∈ knownEntries, ∀ f ∈ knownEntries, BitVec.ofNat 8 e.2 = BitVec.ofNat 8 f.2 → e = f := by decide

theorem mem_openPositions {q : Nat} : q ∈ openPositions ↔ q < 128 ∧ ∀ e ∈ knownEntries, e.2 ≠ q := by
  simp [openPositions]

/-- An open position is a byte below 128. -/
theorem toNat_ofNat_openPosition {q : Nat} (h : q ∈ openPositions) : (BitVec.ofNat 8 q).toNat = q :=
  Nat.mod_eq_of_lt ((mem_openPositions.1 h).1.trans (by decide))

theorem openPosition_le {q : Nat} (h : q ∈ openPositions) : BitVec.ofNat 8 q ≤ 127#8 := by
  rw [BitVec.le_def, toNat_ofNat_openPosition h]
  exact Nat.le_of_lt_succ (mem_openPositions.1 h).1

theorem openPosition_ne_sentinel {q : Nat} (h : q ∈ openPositions) : BitVec.ofNat 8 q ≠ sentinel :=
  fun hs => absurd (hs ▸ openPosition_le h) (by decide)

/-- An open position differs from every known word. -/
theorem openPosition_ne_known {q : Nat} (h : q ∈ openPositions) {e : Nat × Nat} (he : e ∈ knownEntries) :
    BitVec.ofNat 8 q ≠ BitVec.ofNat 8 e.2 := by
  have small : ∀ e ∈ knownEntries, (BitVec.ofNat 8 e.2).toNat = e.2 := by decide
  intro hw
  have := congrArg BitVec.toNat hw
  rw [toNat_ofNat_openPosition h, small e he] at this
  exact (mem_openPositions.1 h).2 e he this.symm

/-- The open address of a rank: the inverse of `openRank`. -/
def openAddr (i : Fin 249) : Byte := BitVec.ofNat 8 (openAddrs.get (i.cast openAddrs_length.symm))

theorem toNat_openAddr (i : Fin 249) : (openAddr i).toNat = openAddrs.get (i.cast openAddrs_length.symm) :=
  Nat.mod_eq_of_lt (List.mem_range.1 (List.mem_filter.1 (List.get_mem openAddrs _)).1)

/-- An open address holds no known entry. -/
theorem lookup_openAddr (i : Fin 249) : knownEntries.lookup (openAddr i).toNat = none := by
  have hmem : (openAddr i).toNat ∈ openAddrs := toNat_openAddr i ▸ List.get_mem _ _
  have hopen := (List.mem_filter.1 hmem).2
  simp only [Bool.not_eq_true', List.any_eq_false, beq_iff_eq] at hopen
  exact List.lookup_eq_none_iff.2 fun e he => bne_iff_ne.2 (Ne.symm (hopen e he))

theorem openRank_openAddr (i : Fin 249) : openRank (openAddr i) = i := by
  have nodup : openAddrs.Nodup := List.nodup_range.filter _
  apply Fin.ext
  rw [openRank_val (lookup_openAddr i), toNat_openAddr, List.get_eq_getElem, nodup.idxOf_getElem, Fin.val_cast]

/-- An address without a known entry is the open address of its own rank. -/
theorem openAddr_openRank {a : Byte} (h : knownEntries.lookup a.toNat = none) : openAddr (openRank a) = a :=
  openRank_injective (lookup_openAddr _) h (openRank_openAddr _)

/-- The rank of an open position among the 249 open addresses: they outnumber the open positions. -/
def openPositionRank (q : Nat) (h : q ∈ openPositions) : Fin 249 :=
  ⟨openPositions.idxOf q, by
    have := List.idxOf_lt_length_of_mem h
    rw [openPositions_length] at this
    omega⟩

/-! ### The entries of a table, for every permutation -/

section
variable (σ : Equiv.Perm (Fin 249))

/-- What an entry can be: a known one, the open position at the address's permuted place, or `SENTINEL`. -/
theorem tableOf_cases (a : Byte) :
    (∃ e ∈ knownEntries, a = BitVec.ofNat 8 e.1 ∧ tableOf σ a = BitVec.ofNat 8 e.2) ∨
    (∃ q, ∃ h : q ∈ openPositions, a = openAddr (σ.symm (openPositionRank q h)) ∧ tableOf σ a = BitVec.ofNat 8 q) ∨
    tableOf σ a = sentinel := by
  cases hk : knownEntries.lookup a.toNat with
  | some d => exact .inl ⟨(a.toNat, d), mem_knownEntries_of_lookup hk, by simp, tableOf_known σ hk⟩
  | none =>
    rw [tableOf_open σ hk]
    by_cases hlt : (σ (openRank a)).val < openPositions.length
    · refine .inr (.inl ⟨openPositions[(σ (openRank a)).val], List.getElem_mem _, ?_, ?_⟩)
      · have rank : openPositionRank _ (List.getElem_mem hlt) = σ (openRank a) :=
          Fin.ext (openPositions_nodup.idxOf_getElem _ hlt)
        rw [rank, Equiv.symm_apply_apply, openAddr_openRank hk]
      · rw [List.getD_eq_getElem _ _ hlt]
    · exact .inr (.inr (by rw [List.getD_eq_default _ _ (Nat.le_of_not_lt hlt), sentinel]))

/-- The address whose permuted place is that of an open position holds it. -/
theorem tableOf_openAddr {q : Nat} (h : q ∈ openPositions) :
    tableOf σ (openAddr (σ.symm (openPositionRank q h))) = BitVec.ofNat 8 q := by
  rw [tableOf_open σ (lookup_openAddr _), openRank_openAddr, Equiv.apply_symm_apply, openPositionRank,
    List.getD_eq_getElem _ _ (List.idxOf_lt_length_of_mem h), List.getElem_idxOf]

/-- R67 and R70: a known word is held at its known address and nowhere else, unless it is `SENTINEL`. -/
theorem tableOf_eq_known_iff {e : Nat × Nat} (he : e ∈ knownEntries) (hpos : BitVec.ofNat 8 e.2 ≠ sentinel)
    (a : Byte) : tableOf σ a = BitVec.ofNat 8 e.2 ↔ a = BitVec.ofNat 8 e.1 := by
  constructor
  · intro ha
    rcases tableOf_cases σ a with ⟨f, hf, haddr, hword⟩ | ⟨q, hq, -, hword⟩ | hword <;> rw [ha] at hword
    · rw [haddr, knownEntries_word_inj e he f hf hword]
    · exact absurd hword.symm (openPosition_ne_known hq he)
    · exact absurd hword hpos
  · rintro rfl
    exact tableOf_known σ (lookup_of_mem_knownEntries e he)

/-- R70: an open position too is held at one address and nowhere else. -/
theorem tableOf_eq_open_iff {q : Nat} (hq : q ∈ openPositions) (a : Byte) :
    tableOf σ a = BitVec.ofNat 8 q ↔ a = openAddr (σ.symm (openPositionRank q hq)) := by
  constructor
  · intro ha
    rcases tableOf_cases σ a with ⟨e, he, -, hword⟩ | ⟨r, hr, haddr, hword⟩ | hword <;> rw [ha] at hword
    · exact absurd hword (openPosition_ne_known hq he)
    · have same : q = r := by
        rw [← toNat_ofNat_openPosition hq, hword, toNat_ofNat_openPosition hr]
      subst same
      exact haddr
    · exact absurd hword (openPosition_ne_sentinel hq)
  · rintro rfl
    exact tableOf_openAddr σ hq

/-- R70: each position has exactly one code, the spec's `ENC(q)`. -/
theorem tableOf_unique_code {q : Byte} (hq : q ≤ 127#8) : ∃ code, ∀ a, tableOf σ a = q ↔ a = code := by
  have hlt : q.toNat < 128 := Nat.lt_succ_of_le (BitVec.le_def.1 hq)
  have word : BitVec.ofNat 8 q.toNat = q := by simp
  by_cases hk : ∃ e ∈ knownEntries, e.2 = q.toNat
  · obtain ⟨e, he, hword⟩ := hk
    have valid : BitVec.ofNat 8 e.2 ≠ sentinel := by
      rw [hword, word]
      rintro rfl
      exact absurd hq (by decide)
    have code := tableOf_eq_known_iff σ he valid
    rw [hword, word] at code
    exact ⟨_, code⟩
  · have hopen : q.toNat ∈ openPositions := mem_openPositions.2 ⟨hlt, fun e he hword => hk ⟨e, he, hword⟩⟩
    have code := tableOf_eq_open_iff σ hopen
    rw [word] at code
    exact ⟨_, code⟩

/-- R63, the range of the table. -/
theorem tableOf_range (a : Byte) : tableOf σ a ≤ 127#8 ∨ tableOf σ a = sentinel := by
  have known : ∀ e ∈ knownEntries, BitVec.ofNat 8 e.2 ≤ 127#8 ∨ BitVec.ofNat 8 e.2 = sentinel := by decide
  rcases tableOf_cases σ a with ⟨e, he, -, hword⟩ | ⟨q, hq, -, hword⟩ | hword <;> rw [hword]
  · exact known e he
  · exact .inl (openPosition_le hq)
  · exact .inr rfl

/-- R65: two valid codes of one position are one address. -/
theorem tableOf_injective {a b : Byte} (ha : tableOf σ a ≤ 127#8) (hab : tableOf σ a = tableOf σ b) : a = b := by
  obtain ⟨code, hcode⟩ := tableOf_unique_code σ ha
  exact ((hcode a).1 rfl).trans ((hcode b).1 hab.symm).symm

/-- R65: every position has a code. -/
theorem tableOf_surjective {q : Byte} (hq : q ≤ 127#8) : ∃ a, tableOf σ a = q := by
  obtain ⟨code, hcode⟩ := tableOf_unique_code σ hq
  exact ⟨code, (hcode code).2 rfl⟩

end

/-! ### Counting the valid codes -/

theorem mem_allBytes (a : Byte) : a ∈ allBytes :=
  List.mem_map.2 ⟨a.toNat, List.mem_range.2 a.isLt, by simp⟩

theorem allBytes_nodup : allBytes.Nodup := by
  refine List.nodup_range.map_on fun m hm n hn h => ?_
  rw [List.mem_range] at hm hn
  simpa [BitVec.toNat_ofNat, Nat.mod_eq_of_lt hm, Nat.mod_eq_of_lt hn] using congrArg BitVec.toNat h

/-- R64, from R65: where the valid codes are one to one with the 128 positions, there are 128 of them. -/
theorem count_valid_of_bijective {T : Byte → Byte} (inj : ∀ a b, T a ≤ 127#8 → T a = T b → a = b)
    (surj : ∀ q : Byte, q ≤ 127#8 → ∃ a, T a = q) :
    (allBytes.filter fun a => decide (T a ≤ 127#8)).length = 128 := by
  have words : ((allBytes.filter fun a => decide (T a ≤ 127#8)).map T).Perm
      (allBytes.filter fun q => decide (q ≤ 127#8)) := by
    refine (List.perm_ext_iff_of_nodup ?_ (allBytes_nodup.filter _)).2 fun q => ?_
    · exact (allBytes_nodup.filter _).map_on fun a ha b _ hab =>
        inj a b (of_decide_eq_true (List.mem_filter.1 ha).2) hab
    · simp only [List.mem_map, List.mem_filter, mem_allBytes, true_and, decide_eq_true_eq]
      constructor
      · rintro ⟨a, ha, rfl⟩
        exact ha
      · intro hq
        obtain ⟨a, rfl⟩ := surj q hq
        exact ⟨a, hq, rfl⟩
  have positions : (allBytes.filter fun q => decide (q ≤ 127#8)).length = 128 := by decide +kernel
  rw [← positions, ← words.length_eq, List.length_map]

/-- R64: of the 256 addresses, those that are not valid are the rest. -/
theorem count_invalid (T : Byte → Byte) :
    (allBytes.filter fun a => decide (¬ T a ≤ 127#8)).length =
      256 - (allBytes.filter fun a => decide (T a ≤ 127#8)).length := by
  have total : allBytes.length = 256 := by simp [allBytes]
  have split := List.length_eq_length_filter_add (l := allBytes) fun a => decide (T a ≤ 127#8)
  simp only [decide_not]
  omega

end Sys2Proof

namespace Sys2Proof.Machine

/-! ### The claims about `GRAY_TABLE` -/

/-- Every table of the model's form keeps R63 to R67. -/
theorem legalTable_tableOf (σ : Equiv.Perm (Fin 249)) : LegalTable (tableOf σ) where
  range := tableOf_range σ
  count := count_valid_of_bijective (fun _ _ => tableOf_injective σ) fun _ => tableOf_surjective σ
  injective _ _ := tableOf_injective σ
  known := ⟨tableOf_known σ (by decide), tableOf_known σ (by decide), tableOf_known σ (by decide),
    tableOf_known σ (by decide), tableOf_known σ (by decide), tableOf_known σ (by decide), tableOf_known σ (by decide)⟩

theorem legalTable_grayTable : LegalTable Config.grayTable := legalTable_tableOf Config.tablePerm

/-- R66: outside the valid codes the table holds `SENTINEL`. -/
theorem LegalTable.invalid {T : Byte → Byte} (h : LegalTable T) {a : Byte} (ha : ¬ T a ≤ 127#8) : T a = sentinel :=
  (h.range a).resolve_left ha

/-- Settles O54: the table is legal, as every table of the model's form is, and R64 and R66 count and fill the rest. -/
theorem tableMeetsItsConstraints : Obligations.TableMeetsItsConstraints := by
  obtain ⟨range, count, injective, known⟩ := legalTable_grayTable
  refine ⟨range, count, ?_, injective, fun _ => tableOf_surjective Config.tablePerm,
    fun _ => legalTable_grayTable.invalid, known⟩
  rw [count_invalid, count]

/-! ### The invalid tag -/

/-- R69: `VALID` is 1 exactly on positions. -/
theorem valid_iff (d : Byte) : valid d = true ↔ d ≤ 127#8 := by
  have tag : d[7] = decide (128 ≤ d.toNat) := d.msb_eq_decide
  rw [valid, tag, Bool.not_eq_true', decide_eq_false_iff_not, Nat.not_le, BitVec.le_def]
  exact Nat.lt_succ_iff

/-- R69: where the tag is 0 the word is its low seven bits. -/
theorem eq_position_of_valid {d : Byte} (h : valid d = true) : d = 0#1 ++ d.extractLsb' 0 7 := by
  have hlt : d.toNat < 128 := Nat.lt_succ_of_le (BitVec.le_def.1 ((valid_iff d).1 h))
  have low : (0#1 ++ d.extractLsb' 0 7).toNat = d.toNat :=
    (BitVec.toNat_append 0#1 (d.extractLsb' 0 7)).trans (by simp [Nat.mod_eq_of_lt hlt])
  exact BitVec.eq_of_toNat_eq low.symm

/-- A known position is held at its known address and nowhere else. -/
theorem grayTable_eq_known_iff {e : Nat × Nat} (he : e ∈ knownEntries) (hpos : BitVec.ofNat 8 e.2 ≠ sentinel)
    (a : Byte) : Config.grayTable a = BitVec.ofNat 8 e.2 ↔ a = BitVec.ofNat 8 e.1 :=
  tableOf_eq_known_iff Config.tablePerm he hpos a

/-- Settles O56: the tag separates the positions from `SENTINEL`, and each position has the one code `ENC` gives it. -/
theorem validTagAndUniqueCode : Obligations.ValidTagAndUniqueCode := by
  refine ⟨fun a => ⟨valid_iff _, rfl, eq_position_of_valid⟩, fun q hq => ?_, ?_⟩
  · obtain ⟨code, hcode⟩ := tableOf_unique_code Config.tablePerm hq
    exact ⟨code, (hcode code).2 rfl, fun b => (hcode b).1⟩
  · exact ⟨grayTable_eq_known_iff (e := (127, 0)) (by decide) (by decide),
      grayTable_eq_known_iff (e := (63, 1)) (by decide) (by decide),
      grayTable_eq_known_iff (e := (8, 8)) (by decide) (by decide),
      grayTable_eq_known_iff (e := (4, 24)) (by decide) (by decide),
      grayTable_eq_known_iff (e := (2, 40)) (by decide) (by decide),
      grayTable_eq_known_iff (e := (1, 56)) (by decide) (by decide)⟩

/-! ### The `DECODE` operation -/

/-- `DECODE` puts its address and the word there on the ROM's ports, and writes no register (R61, R62). -/
theorem exec_decode (a : Byte) (s : State) : exec (.decode a) s = .next (s.readRom Config.params a) := rfl

/-- Settles O11: an entry is a position, which is not 200, or it is 200, which is no less than 128. -/
theorem decodeReadsTheRom : Obligations.DecodeReadsTheRom := by
  refine ⟨exec_decode, grayTable_zero, tableOf_known _ (by decide), fun a =>
    ⟨fun hvalid h200 => ?_, fun hinvalid => ?_⟩⟩
  · rw [h200] at hvalid
    exact absurd hvalid (by decide)
  · rw [legalTable_grayTable.invalid hinvalid]
    decide

end Sys2Proof.Machine
end

section
/-! PROOFS. The rules of the sampling controller (41_sampling_fsm.md): the row of outputs of each state, the next state
under each rule, which input levels a rule reads, and the exit tests. -/

namespace Sys2Proof.Machine

/-! ### The outputs -/

/-- The output ports as functions of the controller state, the counter and the flag (R78 to R80, R100, R101). -/
theorem outputs_of_code (p : Params) {s : State} {c : Ctl} (hs : s.state = encodeCtl c) :
    outputs p s =
      { load := decide (c ≠ .latchLow), inhibit := decide (c ≠ .enableOut ∧ c ≠ .transfer),
        sclk := !decide (c = .transfer ∧ s.cnt < 16 * p.halfCyc ∧ s.cnt % (2 * p.halfCyc) < p.halfCyc),
        mosi := true, reportStb := decide (c = .report ∧ s.cnt = 0 ∧ s.faultQ = false),
        faultStb := decide (c = .report ∧ s.cnt = 0 ∧ s.faultQ = true), idle := decide (c = .idle),
        sample := s.sampleQ, position := s.posQ } := by
  simp [outputs, loadLine, inhibitLine, sclkLine, mosiLine, inReportStart, isIn_of_code hs, Bool.and_assoc]

/-- Settles O27: each line level is a test on the controller state. -/
theorem lineLevelsPerState : Obligations.LineLevelsPerState := by
  intro s
  obtain ⟨c, hs⟩ := s.code_cases
  have code (d : Ctl) : s.state = encodeCtl d ↔ c = d := by rw [hs, encodeCtl_inj]
  have row := outputs_of_code Config.params hs
  refine ⟨Iff.trans ?_ (code .latchLow).symm, Iff.trans ?_ (or_congr (code .enableOut) (code .transfer)).symm,
    Iff.trans ?_ (code .idle).symm, rfl, rfl⟩ <;> rw [row]
  · simp
  · simp [or_iff_not_imp_left]
  · simp

/-! ### The next state under each rule -/

/-- A row of the `STATE` format runs its rule. -/
theorem exec_instr (c : Ctl) (s : State) : exec c.instr s = .next (ctlRule Config.params c s) := by
  cases c <;> rfl

theorem exec_of_rule {c : Ctl} {s t : State} (h : ctlRule Config.params c s = t) : exec c.instr s = .next t := by
  rw [exec_instr, h]

section
variable {p : Params} {s : State}

/-- A bus fault ends each of the first four active states in the same way (60_exceptions.md R110, R112). -/
theorem ctlRule_of_busFault {c : Ctl} (reads : readsBusFault c = true) (hc : c ≠ .disableOut)
    (hb : s.busFault = true) : ctlRule p c s = s.raiseBusFault := by
  cases c with
  | latchLow => simp [ctlRule, ruleLatchLow, hb]
  | latchHigh => simp [ctlRule, ruleLatchHigh, hb]
  | enableOut => simp [ctlRule, ruleEnableOut, hb]
  | transfer => simp [ctlRule, ruleTransfer, hb]
  | disableOut => exact absurd rfl hc
  | idle | report | reserved => exact absurd reads (by decide)

theorem ruleIdle_of_stop (hs : s.stopReq = true) : ruleIdle s = s := by simp [ruleIdle, hs]

theorem ruleIdle_of_run (hs : s.stopReq = false) : ruleIdle s = s.goto .latchLow := by simp [ruleIdle, hs]

theorem ruleLatchLow_of_noFault (hb : s.busFault = false) :
    ruleLatchLow p s = if lastCount p .latchLow ≤ s.cnt then s.goto .latchHigh else State.tick p s := by
  simp [ruleLatchLow, hb, atExit, lastCount]

theorem ruleLatchHigh_of_noFault (hb : s.busFault = false) : ruleLatchHigh s = s.goto .enableOut := by
  simp [ruleLatchHigh, hb]

theorem ruleEnableOut_of_noFault (hb : s.busFault = false) :
    ruleEnableOut p s =
      if lastCount p .enableOut ≤ s.cnt then (s.goto .transfer).clearRx else State.tick p s := by
  simp [ruleEnableOut, hb, atExit, lastCount]

theorem ruleTransfer_of_noFault (hb : s.busFault = false) :
    ruleTransfer p s =
      if lastCount p .transfer ≤ s.cnt then (sampled p s).goto .disableOut else State.tick p (sampled p s) := by
  simp [ruleTransfer, hb, atExit, lastCount]

theorem ruleDisableOut_of_noFault (hm : mergedFault s = false) :
    ruleDisableOut p s = ((State.writeReport p s).goto .report).setFault false := by
  simp [ruleDisableOut, hm]

theorem ruleDisableOut_of_fault (hm : mergedFault s = true) :
    ruleDisableOut p s = (s.goto .report).setFault true := by
  simp [ruleDisableOut, hm]

theorem ruleReport_eq :
    ruleReport p s = if lastCount p .report ≤ s.cnt then s.endCycle else State.tick p s := by
  simp [ruleReport, atExit, lastCount]

end

/-- Settles O12: the two values of `STOP_REQ`, and the row of outputs. -/
theorem idleStartsACycleUnlessStopped : Obligations.IdleStartsACycleUnlessStopped := by
  refine ⟨by decide, fun s => ⟨fun hs => ?_, fun hs => ?_, fun hcode => ?_⟩⟩
  · exact exec_of_rule (c := .idle) (ruleIdle_of_run hs)
  · exact exec_of_rule (c := .idle) (ruleIdle_of_stop hs)
  · simp [outputs_of_code (c := .idle) _ hcode]

/-- Settles O13: the abort path, the rule without a fault, and the row of outputs. -/
theorem latchLowHoldsLoadLow : Obligations.LatchLowHoldsLoadLow := by
  refine ⟨by decide, fun s => ⟨fun hb => ?_, fun hb => ?_, fun hcode => ?_⟩⟩
  · exact exec_of_rule (c := .latchLow) (ctlRule_of_busFault rfl (by decide) hb)
  · exact exec_of_rule (c := .latchLow) (ruleLatchLow_of_noFault hb)
  · simp [outputs_of_code (c := .latchLow) _ hcode]

/-- Settles O14, as O13; the state is not timed. -/
theorem latchHighLastsOneCycle : Obligations.LatchHighLastsOneCycle := by
  refine ⟨by decide, fun s => ⟨fun hb => ?_, fun hb => ?_, fun hcode => ?_⟩⟩
  · exact exec_of_rule (c := .latchHigh) (ctlRule_of_busFault rfl (by decide) hb)
  · exact exec_of_rule (c := .latchHigh) (ruleLatchHigh_of_noFault hb)
  · simp [outputs_of_code (c := .latchHigh) _ hcode]

/-- Settles O15, as O13; the exit clears `rx` too. -/
theorem enableOutClearsRxOnExit : Obligations.EnableOutClearsRxOnExit := by
  refine ⟨by decide, fun s => ⟨fun hb => ?_, fun hb => ?_, fun hcode => ?_⟩⟩
  · exact exec_of_rule (c := .enableOut) (ctlRule_of_busFault rfl (by decide) hb)
  · exact exec_of_rule (c := .enableOut) (ruleEnableOut_of_noFault hb)
  · simp [outputs_of_code (c := .enableOut) _ hcode]

/-- Settles O16: the sample is taken before the exit test, so in both branches of it. -/
theorem transferShiftsAndExits : Obligations.TransferShiftsAndExits := by
  refine ⟨by decide, fun s => ⟨fun hb => ?_, fun hb => ?_, fun hcode => ?_⟩⟩
  · exact exec_of_rule (c := .transfer) (ctlRule_of_busFault rfl (by decide) hb)
  · refine exec_of_rule (c := .transfer) ((ruleTransfer_of_noFault hb).trans ?_)
    simp only [sampled_eq, isSampleCycle_iff, lastCount, transferCyc]
    split <;> rfl
  · simp [outputs_of_code (c := .transfer) _ hcode]

/-- Settles O17: the two cases are the two values of `mergedFault`. -/
theorem disableOutWritesTheReport : Obligations.DisableOutWritesTheReport := by
  refine ⟨by decide, fun s => ⟨fun hf hb => ?_, fun hfault => ?_, fun hcode => ?_⟩⟩
  · exact exec_of_rule (c := .disableOut) (ruleDisableOut_of_noFault (by simp [mergedFault, hf, hb]))
  · exact exec_of_rule (c := .disableOut) (ruleDisableOut_of_fault (by simpa [mergedFault] using hfault))
  · simp [outputs_of_code (c := .disableOut) _ hcode]

/-- Settles O18: the exit is the return of `endCycle`, which clears the flag. -/
theorem reportWaitsAndClearsTheFlag : Obligations.ReportWaitsAndClearsTheFlag := by
  refine ⟨by decide, fun s => ⟨exec_of_rule (c := .report) ruleReport_eq, fun hcode => ?_⟩⟩
  simp [outputs_of_code (c := .report) _ hcode]

/-- Settles O19: the reserved code recovers by `endCycle`, which names the three registers it writes. -/
theorem reservedCodeRecovers : Obligations.ReservedCodeRecovers := by
  refine ⟨by decide, fun s => ⟨exec_of_rule (c := .reserved) s.endCycle_eq, fun hcode => ?_⟩⟩
  simp [outputs_of_code (c := .reserved) _ hcode]

/-! ### One edge -/

/-- A word with `RST = 0` is the word of its other three levels. -/
theorem inputWord_of_run {w : InWord} (h : w[3] = false) : inputWord false (w[2]) (w[1]) (w[0]) = w := by
  revert h; revert w; decide

/-- An edge with `RST = 0` runs the rule of the code in `state`, with the word of the cycle on the pins. -/
theorem clkEdge_of_run (p : Params) {w : InWord} (h : w[3] = false) (s : State) :
    clkEdge p w s = ctlRule p (decodeCtl s.state) (s.withPins w) := by
  simp [clkEdge, ruleStep, h, inputWord_of_run h]

theorem clkEdge_of_code {p : Params} {w : InWord} {s : State} {c : Ctl} (h : w[3] = false)
    (hs : s.state = encodeCtl c) : clkEdge p w s = ctlRule p c (s.withPins w) := by
  rw [clkEdge_of_run p h, hs, decodeCtl_encodeCtl]

theorem registersReset_clkEdge (p : Params) {w : InWord} (h : w[3] = true) (s : State) :
    RegistersReset (clkEdge p w s) := by
  rw [clkEdge, if_pos h]
  exact registersReset_ruleReset _ s

/-- R75: a rule that changes neither the state nor the counter is `IDLE` under `STOP_REQ`; a count goes up and every
other move changes the state. -/
theorem ctlRule_still {p : Params} {c : Ctl} {s : State} (hs : s.state = encodeCtl c)
    (still : SameRegisters s (ctlRule p c s)) : c = .idle ∧ s.stopReq = true := by
  obtain ⟨hstate, hcnt, -⟩ := still
  rcases (ctlRule_ruleStep p c s).control hs with ⟨rfl, -, -⟩ | ⟨-, -, hn⟩ | ⟨d, hd, -, ht, -⟩
  · rcases ruleIdle_cases s with ⟨hstop, -⟩ | ⟨-, hgo⟩
    · exact ⟨rfl, hstop⟩
    · rw [ctlRule, hgo, hs, State.goto_state, encodeCtl_inj] at hstate
      exact absurd hstate (by decide)
  · omega
  · exact absurd (encodeCtl_inj.1 (ht.symm.trans (hstate.symm.trans hs))) hd

/-- Settles O8: an edge is the reset or the rule of the code in `state`, and `ctlRule_still` is the last clause. -/
theorem edgeAppliesTheStepFunction : Obligations.EdgeAppliesTheStepFunction := by
  intro s w rest he
  refine ⟨_, step_of_clk he, fun hrst => registersReset_clkEdge _ hrst _, fun hrun => ?_⟩
  rw [clkEdge_of_run _ hrun]
  refine ⟨⟨_, decode_state s.state, exec_instr _ _⟩, fun still => ?_⟩
  obtain ⟨hidle, hstop⟩ := ctlRule_still (s := State.withPins { s with events := rest } w) (by simp) still
  exact ⟨eq_encodeCtl.2 hidle, hstop⟩

/-! ### What a rule reads of the inputs -/

theorem State.withPins_ite (q : Prop) [Decidable q] (s t : State) (w : InWord) :
    (if q then s else t).withPins w = if q then s.withPins w else t.withPins w := by split <;> rfl

/-- A rule reads `STOP_REQ` only in `IDLE`, `BUS_FAULT` only where R110 says so, and `MISO` only in the sample cycles of
`TRANSFER`: two words that agree there lead to the same next state but for the recorded word. -/
theorem ctlRule_withPins (p : Params) {c : Ctl} {s : State} {v w : InWord} (stop : c = .idle → w[2] = v[2])
    (fault : readsBusFault c = true → w[1] = v[1])
    (miso : c = .transfer → isSampleCycle p s.cnt = true → w[0] = v[0]) :
    ctlRule p c (s.withPins w) = (ctlRule p c (s.withPins v)).withPins w := by
  have sameStop : c = .idle → (s.withPins w).stopReq = (s.withPins v).stopReq := stop
  have sameFault : readsBusFault c = true → (s.withPins w).busFault = (s.withPins v).busFault := fault
  cases c with
  | idle => simp only [ctlRule, ruleIdle, sameStop rfl, State.withPins_ite]; rfl
  | latchLow => simp only [ctlRule, ruleLatchLow, sameFault rfl, State.withPins_ite]; rfl
  | latchHigh => simp only [ctlRule, ruleLatchHigh, sameFault rfl, State.withPins_ite]; rfl
  | enableOut => simp only [ctlRule, ruleEnableOut, sameFault rfl, State.withPins_ite]; rfl
  | transfer =>
    have same : sampled p (s.withPins w) = (sampled p (s.withPins v)).withPins w := by
      by_cases h : isSampleCycle p s.cnt = true
      · simp only [sampled, State.withPins_cnt, h, if_true, State.receive, State.withPins_miso, miso rfl h]
        rfl
      · simp only [sampled, State.withPins_cnt, h]
        rfl
    simp only [ctlRule, ruleTransfer, sameFault rfl, same, State.withPins_ite]
    rfl
  | disableOut =>
    have same : mergedFault (s.withPins w) = mergedFault (s.withPins v) := congrArg (s.faultQ || ·) (sameFault rfl)
    simp only [ctlRule, ruleDisableOut, same]
    cases mergedFault (s.withPins v) <;> rfl
  | report => simp only [ctlRule, ruleReport, State.withPins_ite]; rfl
  | reserved => rfl

/-! ### Runs under given words -/

section
variable {s t : State} {w : Nat → InWord}

/-- The words after the first `m` are given where those are used up. -/
theorem Gives.drop {m n k : Nat} (h : Gives s w k) (hk : m + n ≤ k) (ht : t.events = s.events.drop m) :
    Gives t (fun j => w (m + j)) n := by
  intro j hj
  rw [ht, List.getElem?_drop]
  exact h (m + j) (by omega)

/-- The induction over the edges of a run: what holds at its start, and is kept by the edge of each given word, holds
at every offset. -/
theorem Gives.runs {n : Nat} {P : Nat → State → Prop} (h : Gives s w n) (start : P 0 s)
    (keeps : ∀ j < n, ∀ t rest, P j t → P (j + 1) (clkEdge Config.params (w j) { t with events := rest })) :
    ∀ j ≤ n, ∃ t, Runs j s t ∧ t.events = s.events.drop j ∧ P j t := by
  intro j hj
  induction j with
  | zero => exact ⟨s, runs_zero.2 rfl, rfl, start⟩
  | succ j ih =>
    obtain ⟨t, hruns, hevents, ht⟩ := ih (by omega)
    have head : t.events = .clk (w j) :: s.events.drop (j + 1) := by
      rw [hevents]
      exact List.drop_eq_getElem?_toList_append.trans (by rw [h j hj]; rfl)
    have edge := step_of_clk head
    exact ⟨_, runs_add hruns (runs_succ.2 ⟨_, edge, runs_zero.2 rfl⟩), by simp, keeps j hj t _ ht⟩

end

/-! ### `STOP_REQ` -/

/-- R96: `STOP_REQ` holds the registers in `IDLE` as long as it is 1. -/
theorem runs_of_stopped {s : State} {w : Nat → InWord} {n : Nat} (hs : s.state = encodeCtl .idle) (hg : Gives s w n)
    (stopped : ∀ j < n, (w j)[3] = false ∧ (w j)[2] = true) : ∃ t, Runs n s t ∧ SameRegisters s t := by
  obtain ⟨t, hruns, -, same⟩ := hg.runs (P := fun _ t => SameRegisters s t) ⟨rfl, rfl, rfl, rfl, rfl, rfl⟩
    (fun j hj t rest same => by
      obtain ⟨hrst, hstop⟩ := stopped j hj
      have idle : t.state = encodeCtl .idle := same.1.symm.trans hs
      rw [clkEdge_of_code (c := .idle) (s := { t with events := rest }) hrst idle, ctlRule, ruleIdle_of_stop (by simpa)]
      exact same) n le_rfl
  exact ⟨t, hruns, same⟩

/-- Settles O38: outside `IDLE` no rule reads `STOP_REQ`, and in `IDLE` its rule is the test of `STOP_REQ`. -/
theorem stopIsReadOnlyInIdle : Obligations.StopIsReadOnlyInIdle := by
  refine ⟨fun b m s hs => ?_, fun b m s hs => ?_, fun n s w hs hg stopped => ?_⟩
  · refine ⟨_, rfl, congrArg Host.Outcome.next (ctlRule_withPins _ (fun hidle => ?_) ?_ ?_)⟩
    · exact absurd (eq_encodeCtl.2 hidle) hs
    · simp
    · simp
  · have rule (sr : Bool) : exec (.step sr b m) s = .next (ruleIdle (s.withPins (inputWord false sr b m))) :=
      congrArg Host.Outcome.next (ruleStep_of_code (c := .idle) hs sr b m)
    rw [rule, rule, ruleIdle_of_stop (by simp), ruleIdle_of_run (by simp)]
    exact ⟨rfl, rfl⟩
  · obtain ⟨t, hruns, same⟩ := runs_of_stopped hs hg stopped
    have idle : t.state = encodeCtl .idle := same.1.symm.trans hs
    exact ⟨t, hruns, same, by simp [outputs_of_idle _ idle]⟩

/-! ### The exit tests -/

/-- R89: a state other than `IDLE` whose count is at or past its last one ends with this edge, by exit or by abort. -/
theorem ctlRule_leaves {p : Params} {c : Ctl} {s : State} (hs : s.state = encodeCtl c) (hc : c ≠ .idle)
    (full : lastCount p c ≤ s.cnt) : (ctlRule p c s).state ≠ s.state ∧ (ctlRule p c s).cnt = 0 := by
  rcases (ctlRule_ruleStep p c s).control hs with ⟨idle, -, -⟩ | ⟨below, -, -⟩ | ⟨d, hd, -, ht, hn⟩
  · exact absurd idle hc
  · omega
  · rw [ht, hs, Ne, encodeCtl_inj]
    exact ⟨hd, hn⟩

/-- R33 and R89: under the invariant the test `>=` passes only at the last count itself. -/
theorem StateInv.exit_iff {s : State} (hi : StateInv s) {c : Ctl} (hs : s.state = encodeCtl c) :
    lastCount Config.params c ≤ s.cnt ↔ s.cnt = lastCount Config.params c :=
  ⟨fun full => Nat.le_antisymm (hi.cnt_le hs) full, fun h => h.ge⟩

/-- Settles O45: the bounds of the invariant make the tests agree, and past the last count no rule counts or holds. -/
theorem exitTestsAgreeFromReset : Obligations.ExitTestsAgreeFromReset := by
  refine ⟨fun _ => FromReset.stateInv, fun s hi => ⟨?_, ?_, ?_⟩, fun sr m s timed => ?_⟩
  · rintro (hs | hs)
    · exact hi.exit_iff (c := .latchLow) hs
    · exact hi.exit_iff (c := .enableOut) hs
  · exact hi.exit_iff (c := .transfer)
  · exact hi.exit_iff (c := .report)
  · have leaves {c : Ctl} (hs : s.state = encodeCtl c) (hc : c ≠ .idle)
        (full : lastCount Config.params c ≤ s.cnt) :
        ∃ t, exec (.step sr false m) s = .next t ∧ t.state ≠ s.state ∧ t.cnt = 0 :=
      ⟨_, congrArg Host.Outcome.next (ruleStep_of_code hs sr false m),
        ctlRule_leaves (s := s.withPins (inputWord false sr false m)) hs hc full⟩
    rcases timed with ⟨hs, full⟩ | ⟨hs, full⟩ | ⟨hs, full⟩ | ⟨hs, full⟩
    · exact leaves (c := .latchLow) hs (by decide) full
    · exact leaves (c := .enableOut) hs (by decide) full
    · exact leaves (c := .transfer) hs (by decide) full
    · exact leaves (c := .report) hs (by decide) full

end Sys2Proof.Machine
end

section
/-! PROOFS. A controller cycle with no fault (41_sampling_fsm.md R77, R90, R95; 42_spi_transfer.md R102 to R104): the
registers at every offset of the cycle, by induction over its edges; the line events and the reports read off them. -/

namespace Sys2Proof.Machine

/-! ### The rules in a cycle with no fault -/

/-- What an edge without a fault leaves in `rx`: `ENABLE_OUT` clears it on its way out, `TRANSFER` shifts in its sample
cycles (R84, R102). -/
def goodRx (p : Params) (s : State) : Ctl → Byte
  | .idle => s.rx
  | .latchLow => s.rx
  | .latchHigh => s.rx
  | .enableOut => if lastCount p .enableOut ≤ s.cnt then 0x00#8 else s.rx
  | .transfer => if isSampleCycle p s.cnt then shiftIn s.rx s.miso else s.rx
  | .disableOut => s.rx
  | .report => s.rx
  | .reserved => s.rx

/-- The whole next state where nothing stops or aborts the cycle: a state counts up to its last count and then gives way
to its successor, and `DISABLE_OUT` writes the report. -/
theorem ctlRule_good {p : Params} {c : Ctl} {s : State} (hs : s.state = encodeCtl c)
    (stop : c = .idle → s.stopReq = false) (fault : readsBusFault c = true → s.busFault = false)
    (flag : s.faultQ = false) :
    ctlRule p c s =
      { s with
        state := encodeCtl (if lastCount p c ≤ s.cnt then successor c else c)
        cnt := if lastCount p c ≤ s.cnt then 0 else s.cnt + 1
        rx := goodRx p s c
        sampleQ := if c = .disableOut then s.rx else s.sampleQ
        posQ := if c = .disableOut then memRead p s.rx else s.posQ } := by
  have count (h : ¬ lastCount p c ≤ s.cnt) : (s.cnt + 1) % 2 ^ p.cntW = s.cnt + 1 :=
    tick_cnt_of_lt (Nat.lt_of_not_le h)
  cases c with
  | idle => simp [ctlRule, ruleIdle_of_run (stop rfl), lastCount, successor, goodRx, State.goto]
  | latchLow =>
    rw [ctlRule, ruleLatchLow_of_noFault (fault rfl)]
    by_cases h : lastCount p .latchLow ≤ s.cnt
    · simp [h, successor, goodRx, State.goto]
    · simp [h, count h, goodRx, State.tick, hs]
  | latchHigh => simp [ctlRule, ruleLatchHigh_of_noFault (fault rfl), lastCount, successor, goodRx, State.goto]
  | enableOut =>
    rw [ctlRule, ruleEnableOut_of_noFault (fault rfl)]
    by_cases h : lastCount p .enableOut ≤ s.cnt
    · simp [h, successor, goodRx, State.goto, State.clearRx]
    · simp [h, count h, goodRx, State.tick, hs]
  | transfer =>
    rw [ctlRule, ruleTransfer_of_noFault (fault rfl), sampled_eq]
    by_cases h : lastCount p .transfer ≤ s.cnt
    · simp [h, successor, goodRx, State.goto]
    · simp [h, count h, goodRx, State.tick, hs]
  | disableOut =>
    rw [ctlRule, ruleDisableOut_of_noFault (by simp [mergedFault, flag, fault rfl])]
    simp [lastCount, successor, goodRx, State.goto, State.writeReport, State.setFault, flag]
  | report =>
    rw [ctlRule, ruleReport_eq]
    by_cases h : lastCount p .report ≤ s.cnt
    · simp [h, successor, goodRx, State.endCycle_eq, flag]
    · simp [h, count h, goodRx, State.tick, hs]
  | reserved => simp [ctlRule, ruleReserved, lastCount, successor, goodRx, State.endCycle_eq, flag]

/-! ### The offsets of the states -/

/-- The offset of the first `CLK` cycle of each state in a cycle with no fault (R90). -/
def entryOffset (p : Params) : Ctl → Nat
  | .idle => 0
  | .latchLow => 1
  | .latchHigh => p.settleCyc + 1
  | .enableOut => p.settleCyc + 2
  | .transfer => 2 * p.settleCyc + 2
  | .disableOut => 3 * p.settleCyc + 16 * p.halfCyc + 2
  | .report => strobeOffset p
  | .reserved => p.period

/-- The period of R92 for the counts of this machine. -/
theorem period_eq : Config.params.period =
    3 + 3 * Config.params.settleCyc + 16 * Config.params.halfCyc + Config.params.repeatCyc := rfl

/-- R77 and R90: each state follows on the last cycle of the one before, and `REPORT` ends the period. -/
theorem entryOffset_successor {c : Ctl} (hc : c ≠ .reserved) :
    entryOffset Config.params c + lastCount Config.params c + 1 =
      if c = .report then Config.params.period else entryOffset Config.params (successor c) := by
  have hS := settleCyc_pos
  have hR := repeatCyc_pos
  cases c with
  | reserved => exact absurd rfl hc
  | idle | latchHigh | disableOut => simp [entryOffset, lastCount, successor, strobeOffset]
  | latchLow | enableOut | transfer | report =>
    simp only [entryOffset, lastCount, successor, transferCyc, strobeOffset, Params.period, reduceCtorEq, if_false,
      if_true]
    omega

/-- Each state but the reserved one ends within the period. -/
theorem lastOffset_lt_period {c : Ctl} (hc : c ≠ .reserved) :
    entryOffset Config.params c + lastCount Config.params c < Config.params.period := by
  have hS := settleCyc_pos
  have hR := repeatCyc_pos
  cases c with
  | reserved => exact absurd rfl hc
  | idle | latchLow | latchHigh | enableOut | transfer | disableOut | report =>
    simp only [entryOffset, lastCount, transferCyc, strobeOffset, Params.period]
    omega

/-- Each state but the reserved one has its interval of offsets. -/
theorem cycleCtl_eq_iff {j : Nat} (hj : j < Config.params.period) {c : Ctl} (hc : c ≠ .reserved) :
    cycleCtl Config.params j = c ↔
      entryOffset Config.params c ≤ j ∧ j ≤ entryOffset Config.params c + lastCount Config.params c := by
  have hS := settleCyc_pos
  have hR := repeatCyc_pos
  have hP := period_eq
  cases c with
  | reserved => exact absurd rfl hc
  | idle | latchLow | latchHigh | enableOut | transfer | disableOut | report =>
    simp only [entryOffset, lastCount, transferCyc, strobeOffset, cycleCtl]
    split_ifs <;> simp only [true_iff, false_iff] <;> omega

/-- Within its interval a state counts from 0. -/
theorem cycleCnt_eq {j : Nat} (hj : j < Config.params.period) :
    cycleCnt Config.params j = j - entryOffset Config.params (cycleCtl Config.params j) := by
  cases hc : cycleCtl Config.params j with
  | reserved => simp [cycleCnt, hc, entryOffset, hj.le]
  | idle | latchHigh | disableOut =>
    have interval := (cycleCtl_eq_iff hj (by decide)).1 hc
    simp only [entryOffset, lastCount] at interval
    simp only [cycleCnt, hc, entryOffset]
    omega
  | latchLow | enableOut | transfer | report =>
    simp only [cycleCnt, hc, entryOffset, strobeOffset]

theorem cycleCtl_ne_reserved (p : Params) (j : Nat) : cycleCtl p j ≠ .reserved := by
  unfold cycleCtl
  split_ifs <;> decide

theorem cycleCtl_period : cycleCtl Config.params Config.params.period = .idle := by
  have hP := period_eq
  rw [cycleCtl, if_neg (by omega), if_neg (by omega), if_neg (by omega), if_neg (by omega), if_neg (by omega),
    if_neg (by omega), if_neg (by omega)]

theorem cycleCnt_period : cycleCnt Config.params Config.params.period = 0 := by
  rw [cycleCnt, cycleCtl_period]

/-- From one offset to the next a state counts up to its last count and then gives way to its successor. -/
theorem cycle_succ {j : Nat} {c : Ctl} {n : Nat} (hj : j < Config.params.period)
    (hctl : cycleCtl Config.params j = c) (hcnt : cycleCnt Config.params j = n) :
    cycleCtl Config.params (j + 1) = (if lastCount Config.params c ≤ n then successor c else c) ∧
      cycleCnt Config.params (j + 1) = if lastCount Config.params c ≤ n then 0 else n + 1 := by
  have hc : c ≠ .reserved := hctl ▸ cycleCtl_ne_reserved _ j
  obtain ⟨entered, within⟩ := (cycleCtl_eq_iff hj hc).1 hctl
  rw [cycleCnt_eq hj, hctl] at hcnt
  have following := entryOffset_successor hc
  by_cases last : lastCount Config.params c ≤ n
  · rw [if_pos last, if_pos last]
    by_cases report : c = .report
    · rw [if_pos report] at following
      have hend : j + 1 = Config.params.period := by omega
      rw [hend, cycleCtl_period, cycleCnt_period, report]
      exact ⟨rfl, rfl⟩
    · rw [if_neg report] at following
      have entry : j + 1 = entryOffset Config.params (successor c) := by omega
      have inside : j + 1 < Config.params.period := by
        have := lastOffset_lt_period (successor_ne_reserved c)
        omega
      have succ : cycleCtl Config.params (j + 1) = successor c :=
        (cycleCtl_eq_iff inside (successor_ne_reserved c)).2 (by omega)
      refine ⟨succ, ?_⟩
      rw [cycleCnt_eq inside, succ]
      omega
  · rw [if_neg last, if_neg last]
    have inside : j + 1 < Config.params.period := by
      have := lastOffset_lt_period hc
      omega
    have stay : cycleCtl Config.params (j + 1) = c := (cycleCtl_eq_iff inside hc).2 (by omega)
    refine ⟨stay, ?_⟩
    rw [cycleCnt_eq inside, stay]
    omega

/-- `BUS_FAULT` is read from the first offset to that of `DISABLE_OUT` at most (60_exceptions.md R110). -/
theorem readsBusFault_interval {j : Nat} (hj : j < Config.params.period)
    (reads : readsBusFault (cycleCtl Config.params j) = true) :
    1 ≤ j ∧ j ≤ 3 * Config.params.settleCyc + 16 * Config.params.halfCyc + 2 := by
  have interval := (cycleCtl_eq_iff hj (cycleCtl_ne_reserved _ j)).1 rfl
  cases hc : cycleCtl Config.params j with
  | idle | report | reserved => simp [hc, readsBusFault] at reads
  | latchLow | latchHigh | enableOut | transfer | disableOut =>
    rw [hc] at interval
    simp only [entryOffset, lastCount, transferCyc] at interval
    omega

/-! ### The bits of a transfer -/

/-- The receive register after `n` bits: the first one is shifted the furthest (42_spi_transfer.md R103). -/
def received (b : Nat → Bool) : Nat → Byte
  | 0 => 0x00#8
  | n + 1 => shiftIn (received b n) (b n)

/-- Shifting in moves every bit up by one place. -/
theorem getLsbD_shiftIn (r : Byte) (m : Bool) {i : Nat} (hi : i < 8) :
    (shiftIn r m).getLsbD i = if i = 0 then m else r.getLsbD (i - 1) := by
  rw [shiftIn, BitVec.getLsbD_append, BitVec.getLsbD_extractLsb', BitVec.getLsbD_ofBool]
  by_cases h : i = 0
  · simp [h]
  · have : 1 ≤ i := by omega
    simp [h, show ¬ i < 1 by omega, show i - 1 < 7 by omega]

/-- Bit `i` of the register is the `i`-th bit before the last one. -/
theorem getLsbD_received (b : Nat → Bool) {n i : Nat} (hi : i < n) (hi8 : i < 8) :
    (received b n).getLsbD i = b (n - 1 - i) := by
  induction n generalizing i with
  | zero => omega
  | succ n ih =>
    rw [received, getLsbD_shiftIn _ _ hi8]
    cases i with
    | zero => simp
    | succ i =>
      rw [if_neg (by omega), Nat.add_sub_cancel, ih (by omega) (by omega)]
      congr 1
      omega

theorem getLsbD_byteOf (b : Nat → Bool) {i : Nat} (hi : i < 8) : (byteOf b).getLsbD i = b (7 - i) := by
  simp only [byteOf, BitVec.getLsbD_append, BitVec.getLsbD_ofBool]
  interval_cases i <;> rfl

/-- Eight bits make the byte that is read MSB first (R103). -/
theorem received_eight (b : Nat → Bool) : received b 8 = byteOf b :=
  BitVec.eq_of_getLsbD_eq fun _ hi => (getLsbD_received b hi hi).trans (getLsbD_byteOf b hi).symm

/-- How many of the eight bits are in `rx` when `TRANSFER` has counted to `t`. -/
def bitsTaken (p : Params) (t : Nat) : Nat := min 8 ((t + p.halfCyc) / (2 * p.halfCyc))

/-- The eight bit windows, of `2*H` cycles each, are the first `16*H` cycles of `TRANSFER` (R100). -/
theorem window_le (p : Params) {i : Nat} (hi : i < 8) :
    2 * p.halfCyc * i + 2 * p.halfCyc ≤ 16 * p.halfCyc :=
  calc 2 * p.halfCyc * i + 2 * p.halfCyc = 2 * p.halfCyc * (i + 1) := (Nat.mul_succ _ _).symm
    _ ≤ 2 * p.halfCyc * 8 := Nat.mul_le_mul_left _ hi
    _ = 16 * p.halfCyc := by omega

section
variable {p : Params} (hH : 1 ≤ p.halfCyc)
include hH

/-- Bit `i` is taken in the last cycle of the first half of its window (R102). -/
theorem isSampleCycle_iff_exists (t : Nat) :
    isSampleCycle p t = true ↔ ∃ i < 8, t = 2 * p.halfCyc * i + p.halfCyc - 1 := by
  rw [isSampleCycle_iff]
  constructor
  · rintro ⟨hlt, hmod⟩
    have split := Nat.div_add_mod t (2 * p.halfCyc)
    exact ⟨t / (2 * p.halfCyc), Nat.div_lt_of_lt_mul (by omega), by omega⟩
  · rintro ⟨i, hi, rfl⟩
    have window := window_le p hi
    rw [Nat.add_sub_assoc hH, Nat.mul_add_mod, Nat.mod_eq_of_lt (by omega)]
    exact ⟨by omega, rfl⟩

/-- Up to the sample of bit `i`, which ends the window's first half, `i` bits are taken. -/
theorem bitsTaken_eq_iff {t i : Nat} (hi : i ≤ 8) :
    bitsTaken p t = i ↔
      2 * p.halfCyc * i ≤ t + p.halfCyc ∧ (i < 8 → t + p.halfCyc < 2 * p.halfCyc * (i + 1)) := by
  have pos : 0 < 2 * p.halfCyc := by omega
  rw [Nat.mul_comm _ i, Nat.mul_comm _ (i + 1), ← Nat.le_div_iff_mul_le pos, ← Nat.div_lt_iff_lt_mul pos, bitsTaken]
  omega

/-- In the sample cycle of bit `i` the bits before it are taken, and after that cycle it is taken too. -/
theorem bitsTaken_of_sample {i : Nat} (hi : i < 8) :
    bitsTaken p (2 * p.halfCyc * i + p.halfCyc - 1) = i ∧ bitsTaken p (2 * p.halfCyc * i + p.halfCyc) = i + 1 := by
  rw [bitsTaken_eq_iff hH hi.le, bitsTaken_eq_iff hH hi, Nat.mul_add, Nat.mul_add _ (i + 1), Nat.mul_add]
  omega

/-- Outside the sample cycles no bit is taken. -/
theorem bitsTaken_succ_of_noSample {t : Nat} (h : ¬ isSampleCycle p t = true) :
    bitsTaken p (t + 1) = bitsTaken p t := by
  have hi : bitsTaken p t ≤ 8 := Nat.min_le_left _ _
  obtain ⟨lower, upper⟩ := (bitsTaken_eq_iff hH hi).1 rfl
  rw [bitsTaken_eq_iff hH hi]
  refine ⟨by omega, fun hlt => ?_⟩
  have inside := upper hlt
  have notLast : t ≠ 2 * p.halfCyc * bitsTaken p t + p.halfCyc - 1 := fun ht =>
    h ((isSampleCycle_iff_exists hH t).2 ⟨_, hlt, ht⟩)
  rw [Nat.mul_add] at inside ⊢
  omega

theorem bitsTaken_of_allSampled {t : Nat} (h : 15 * p.halfCyc ≤ t) : bitsTaken p t = 8 :=
  (bitsTaken_eq_iff hH le_rfl).2 ⟨by omega, fun hlt => absurd hlt (lt_irrefl 8)⟩

theorem bitsTaken_zero : bitsTaken p 0 = 0 :=
  (bitsTaken_eq_iff hH (Nat.zero_le 8)).2 ⟨by omega, fun _ => by omega⟩

end

/-! ### The registers at every offset -/

/-- The levels of `MISO` that the words of a cycle give in the eight sample cycles. -/
def presentedBit (p : Params) (w : Nat → InWord) (i : Nat) : Bool := (w (sampleOffset p i))[0]

theorem received_presentedBit (p : Params) (w : Nat → InWord) : received (presentedBit p w) 8 = presentedByte p w :=
  received_eight _

/-- The registers at offset `j` of the cycle with no fault that starts in `s` under the words `w`. -/
structure OnGoodCycle (s : State) (w : Nat → InWord) (j : Nat) (t : State) : Prop where
  code : t.state = encodeCtl (cycleCtl Config.params j)
  count : t.cnt = cycleCnt Config.params j
  unmarked : t.faultQ = false
  bits : entryOffset Config.params .transfer ≤ j →
    t.rx = received (presentedBit Config.params w) (bitsTaken Config.params (j - entryOffset Config.params .transfer))
  held : j < strobeOffset Config.params → t.sampleQ = s.sampleQ ∧ t.posQ = s.posQ
  reported : strobeOffset Config.params ≤ j →
    t.sampleQ = presentedByte Config.params w ∧ t.posQ = Config.grayTable (presentedByte Config.params w)

theorem onGoodCycle_start {s : State} (w : Nat → InWord) (hs : AtIdle s) : OnGoodCycle s w 0 s where
  code := hs.1
  count := hs.2.1
  unmarked := hs.2.2
  bits h := absurd h (by simp [entryOffset])
  held _ := ⟨rfl, rfl⟩
  reported h := absurd h (by simp [strobeOffset])

section
variable {s t : State} {w : Nat → InWord} {j : Nat}

/-- From the last sample on the register holds the presented byte (R104). -/
theorem OnGoodCycle.rx_of_allSampled (h : OnGoodCycle s w j t)
    (hj : entryOffset Config.params .transfer + 15 * Config.params.halfCyc ≤ j) :
    t.rx = presentedByte Config.params w := by
  rw [h.bits (by omega), bitsTaken_of_allSampled halfCyc_pos (by omega), received_presentedBit]

/-- The edge at offset `j` leaves in `rx` the bits of offset `j + 1`. -/
theorem OnGoodCycle.goodRx_eq (h : OnGoodCycle s w j t) (hj : j < Config.params.period)
    (hm : t.miso = (w j)[0]) (after : entryOffset Config.params .transfer ≤ j + 1) :
    goodRx Config.params t (cycleCtl Config.params j) =
      received (presentedBit Config.params w)
        (bitsTaken Config.params (j + 1 - entryOffset Config.params .transfer)) := by
  have count := h.count
  rw [cycleCnt_eq hj] at count
  have interval := (cycleCtl_eq_iff hj (cycleCtl_ne_reserved _ j)).1 rfl
  have hS := settleCyc_pos
  cases hc : cycleCtl Config.params j with
  | reserved => exact absurd hc (cycleCtl_ne_reserved _ j)
  | idle | latchLow | latchHigh =>
    rw [hc] at interval
    simp only [entryOffset, lastCount] at interval after
    omega
  | enableOut =>
    rw [hc] at interval count
    simp only [entryOffset, lastCount] at interval count after
    have start : j + 1 - entryOffset Config.params .transfer = 0 := by simp only [entryOffset]; omega
    rw [goodRx, if_pos (by simp only [lastCount]; omega), start, bitsTaken_zero halfCyc_pos, received]
  | transfer =>
    rw [hc] at interval count
    rw [Nat.sub_add_comm interval.1, ← count, goodRx, h.bits interval.1, ← count]
    by_cases sample : isSampleCycle Config.params t.cnt = true
    · obtain ⟨i, hi, ht⟩ := (isSampleCycle_iff_exists halfCyc_pos _).1 sample
      obtain ⟨before, now⟩ := bitsTaken_of_sample halfCyc_pos hi
      have hH := halfCyc_pos
      have offset : j = sampleOffset Config.params i := by
        simp only [entryOffset] at interval count
        rw [sampleOffset]
        omega
      rw [if_pos sample, ht, before, Nat.sub_add_cancel (by omega), now, received, hm, presentedBit, offset]
    · rw [if_neg sample, bitsTaken_succ_of_noSample halfCyc_pos sample]
  | disableOut | report =>
    rw [hc] at interval
    simp only [entryOffset, strobeOffset] at interval
    have late : 15 * Config.params.halfCyc ≤ j - entryOffset Config.params .transfer := by
      simp only [entryOffset]; omega
    rw [goodRx, h.bits (by simp only [entryOffset]; omega), bitsTaken_of_allSampled halfCyc_pos late,
      bitsTaken_of_allSampled halfCyc_pos (by omega)]

/-- Every edge of a cycle with good words leads from the registers of its offset to those of the next. -/
theorem OnGoodCycle.edge (h : OnGoodCycle s w j t) (good : GoodWords Config.params w) (hj : j < Config.params.period)
    (rest : List Event) : OnGoodCycle s w (j + 1) (clkEdge Config.params (w j) { t with events := rest }) := by
  obtain ⟨run, stop, fault⟩ := good
  obtain ⟨succCtl, succCnt⟩ := cycle_succ hj rfl rfl
  have starting := cycleCtl_eq_iff hj (c := .idle) (by decide)
  have ending : cycleCtl Config.params j = .disableOut ↔ j + 1 = strobeOffset Config.params := by
    rw [cycleCtl_eq_iff hj (by decide)]
    simp only [entryOffset, lastCount, strobeOffset]
    omega
  let u : State := State.withPins { t with events := rest } (w j)
  have hu : OnGoodCycle s w j u := ⟨h.code, h.count, h.unmarked, h.bits, h.held, h.reported⟩
  have noStop : cycleCtl Config.params j = .idle → u.stopReq = false := fun hidle => by
    obtain rfl : j = 0 := Nat.le_zero.1 (starting.1 hidle).2
    exact stop
  have noFault : readsBusFault (cycleCtl Config.params j) = true → u.busFault = false := fun reads => by
    obtain ⟨lower, upper⟩ := readsBusFault_interval hj reads
    exact fault j lower upper
  rw [clkEdge_of_code (s := { t with events := rest }) (run j hj) h.code,
    ctlRule_good (s := u) hu.code noStop noFault hu.unmarked]
  refine ⟨?_, ?_, hu.unmarked, fun after => hu.goodRx_eq hj rfl after, fun before => ?_, fun after => ?_⟩
  · rw [succCtl, ← hu.count]
  · rw [succCnt, ← hu.count]
  · have notYet : cycleCtl Config.params j ≠ .disableOut := fun hc => by
      have := ending.1 hc
      omega
    simp only [notYet, if_false]
    exact hu.held (by omega)
  · by_cases hc : cycleCtl Config.params j = .disableOut
    · have rx : u.rx = presentedByte Config.params w := hu.rx_of_allSampled (by
        have := ending.1 hc
        simp only [entryOffset, strobeOffset] at this ⊢
        omega)
      simp only [hc, if_true, rx, memRead_params, and_self]
    · have : j + 1 ≠ strobeOffset Config.params := fun h => hc (ending.2 h)
      simp only [hc, if_false]
      exact hu.reported (by omega)

/-- The registers at every offset of a cycle with no fault. -/
theorem exists_onGoodCycle (hs : AtIdle s) (hg : Gives s w Config.params.period) (good : GoodWords Config.params w) :
    ∀ j ≤ Config.params.period, ∃ t, Runs j s t ∧ t.events = s.events.drop j ∧ OnGoodCycle s w j t :=
  hg.runs (onGoodCycle_start w hs) fun _ hj _ rest h => h.edge good hj rest

/-- The block is in `IDLE` again at the end of the period (R92). -/
theorem OnGoodCycle.atIdle (h : OnGoodCycle s w Config.params.period t) : AtIdle t :=
  ⟨by rw [h.code, cycleCtl_period], by rw [h.count, cycleCnt_period], h.unmarked⟩

/-! ### The outputs at every offset -/

/-- The report strobe comes at its offset only (R80, R90). -/
theorem OnGoodCycle.reportStb_iff (h : OnGoodCycle s w j t) (hj : j < Config.params.period) :
    (outputs Config.params t).reportStb = true ↔ j = strobeOffset Config.params := by
  have interval := cycleCtl_eq_iff hj (c := .report) (by decide)
  have count := h.count
  rw [cycleCnt_eq hj] at count
  simp only [outputs_of_code _ h.code, h.unmarked, and_true, decide_eq_true_iff]
  constructor
  · rintro ⟨hc, hn⟩
    rw [hc] at count
    have := (interval.1 hc).1
    simp only [entryOffset] at count this
    omega
  · intro hj'
    have hc := interval.2 (by rw [entryOffset]; omega)
    rw [hc, entryOffset] at count
    exact ⟨hc, by omega⟩

theorem OnGoodCycle.faultStb_eq_false (h : OnGoodCycle s w j t) : (outputs Config.params t).faultStb = false := by
  simp [outputs_of_code _ h.code, h.unmarked]

end

/-- `SCLK` is low in the first half of each of the eight bit windows (R100). -/
theorem lowHalf_iff_exists (p : Params) (n : Nat) :
    n < 16 * p.halfCyc ∧ n % (2 * p.halfCyc) < p.halfCyc ↔
      ∃ i < 8, 2 * p.halfCyc * i ≤ n ∧ n < 2 * p.halfCyc * i + p.halfCyc := by
  constructor
  · rintro ⟨hlt, hmod⟩
    have split := Nat.div_add_mod n (2 * p.halfCyc)
    exact ⟨n / (2 * p.halfCyc), Nat.div_lt_of_lt_mul (by omega), by omega, by omega⟩
  · rintro ⟨i, hi, lower, upper⟩
    have window := window_le p hi
    obtain ⟨r, rfl⟩ := Nat.exists_eq_add_of_le lower
    rw [Nat.mul_add_mod, Nat.mod_eq_of_lt (by omega)]
    omega

section
variable {s t : State} {w : Nat → InWord} {j : Nat}

theorem OnGoodCycle.sclk_low_iff (h : OnGoodCycle s w j t) (hj : j < Config.params.period) :
    (outputs Config.params t).sclk = false ↔
      ∃ i < 8, entryOffset Config.params .transfer + 2 * Config.params.halfCyc * i ≤ j ∧
        j < entryOffset Config.params .transfer + 2 * Config.params.halfCyc * i + Config.params.halfCyc := by
  have interval := cycleCtl_eq_iff hj (c := .transfer) (by decide)
  have count := h.count
  rw [cycleCnt_eq hj] at count
  simp only [outputs_of_code _ h.code, Bool.not_eq_false', decide_eq_true_iff, lowHalf_iff_exists]
  constructor
  · rintro ⟨hc, i, hi, lower, upper⟩
    have := (interval.1 hc).1
    rw [hc] at count
    exact ⟨i, hi, by omega, by omega⟩
  · rintro ⟨i, hi, lower, upper⟩
    have window := window_le Config.params hi
    have hc := interval.2 (by simp only [lastCount, transferCyc]; omega)
    rw [hc] at count
    exact ⟨hc, i, hi, by omega, by omega⟩

/-- The sample edge of bit `i` ends the first half of its window, within the period. -/
theorem sampleOffset_succ {i : Nat} (hi : i < 8) :
    sampleOffset Config.params i + 1 =
        2 * Config.params.settleCyc + 2 + 2 * Config.params.halfCyc * i + Config.params.halfCyc ∧
      sampleOffset Config.params i + 1 ≤ Config.params.period := by
  have window := window_le Config.params hi
  have hH := halfCyc_pos
  rw [sampleOffset, period_eq]
  omega

/-- The edge at the sample offset of bit `i` shifts in the level of `MISO` there (R90, R102). -/
theorem OnGoodCycle.rx_after_sample {i : Nat} {u v : State} (before : OnGoodCycle s w (sampleOffset Config.params i) u)
    (hi : i < 8) (after : OnGoodCycle s w (sampleOffset Config.params i + 1) v) :
    v.rx = shiftIn u.rx ((w (sampleOffset Config.params i))[0]) := by
  obtain ⟨taken, takenToo⟩ := bitsTaken_of_sample halfCyc_pos hi
  have hH := halfCyc_pos
  have offset : sampleOffset Config.params i = entryOffset Config.params .transfer +
      (2 * Config.params.halfCyc * i + Config.params.halfCyc - 1) := by
    rw [sampleOffset, entryOffset]
    omega
  have count : sampleOffset Config.params i - entryOffset Config.params .transfer =
      2 * Config.params.halfCyc * i + Config.params.halfCyc - 1 := by omega
  rw [before.bits (by omega), after.bits (by omega), Nat.sub_add_comm (by omega), count,
    Nat.sub_add_cancel (by omega), taken, takenToo]
  rfl

end

/-- Settles O47: the line levels are tests on the state and the count that `OnGoodCycle` gives at every offset. -/
theorem goodCycleLineEvents : Obligations.GoodCycleLineEvents := by
  intro s w hs hg good
  have cycle := exists_onGoodCycle hs hg good
  have hS := settleCyc_pos
  refine ⟨fun j hj => ?_, fun i hi => ?_, ?_⟩
  · obtain ⟨t, hruns, -, ht⟩ := cycle j hj.le
    have row := outputs_of_code Config.params ht.code
    refine ⟨t, hruns, ?_, ?_, ht.sclk_low_iff hj, ht.reportStb_iff hj, ht.faultStb_eq_false, ?_⟩
    · rw [row, decide_eq_false_iff_not, not_not, cycleCtl_eq_iff hj (by decide)]
      simp only [entryOffset, lastCount]
      omega
    · rw [row, decide_eq_false_iff_not, ← not_or, not_not, cycleCtl_eq_iff hj (by decide),
        cycleCtl_eq_iff hj (by decide)]
      simp only [entryOffset, lastCount, transferCyc]
      omega
    · rw [row, decide_eq_true_iff, cycleCtl_eq_iff hj (by decide)]
      simp only [entryOffset, lastCount]
      omega
  · obtain ⟨offset, inside⟩ := sampleOffset_succ hi
    obtain ⟨u, hu, -, before⟩ := cycle (sampleOffset Config.params i) (Nat.le_of_succ_le inside)
    obtain ⟨v, hv, -, after⟩ := cycle (sampleOffset Config.params i + 1) inside
    exact ⟨u, v, hu, offset ▸ hv, before.rx_after_sample hi after⟩
  · obtain ⟨t, hruns, -, ht⟩ := cycle Config.params.period le_rfl
    refine ⟨t, ?_, ?_⟩
    · rw [period_eq] at hruns
      convert hruns using 1
      omega
    · rw [outputs_of_idle _ ht.atIdle.1]

/-! ### Cycles in a row -/

section
variable {s : State} {w : Nat → InWord} {N : Nat}

/-- The words of the `n`-th of several cycles in a row. -/
def wordsOfCycle (p : Params) (w : Nat → InWord) (n : Nat) : Nat → InWord := fun j => w (n * p.period + j)

/-- Good cycles in a row each start in `IDLE`, with their own words next. -/
theorem exists_start_of_cycle (hs : AtIdle s) (hg : Gives s w (N * Config.params.period))
    (good : ∀ n < N, GoodWords Config.params (wordsOfCycle Config.params w n)) {n : Nat} (hn : n ≤ N) :
    ∃ t, Runs (n * Config.params.period) s t ∧ AtIdle t ∧ t.events = s.events.drop (n * Config.params.period) := by
  induction n with
  | zero => exact ⟨s, by rw [Nat.zero_mul]; exact runs_zero.2 rfl, hs, by simp⟩
  | succ n ih =>
    obtain ⟨t, hruns, idle, events⟩ := ih (by omega)
    have words : Gives t (wordsOfCycle Config.params w n) Config.params.period :=
      hg.drop (by rw [← Nat.succ_mul]; exact Nat.mul_le_mul_right _ hn) events
    obtain ⟨u, hu, uevents, hend⟩ := exists_onGoodCycle idle words (good n hn) _ le_rfl
    exact ⟨u, Nat.succ_mul n _ ▸ runs_add hruns hu, hend.atIdle,
      by rw [uevents, events, List.drop_drop, Nat.succ_mul]⟩

/-- Every offset of good cycles in a row is an offset of one of them. -/
theorem exists_onGoodCycle_of_cycles (hs : AtIdle s) (hg : Gives s w (N * Config.params.period))
    (good : ∀ n < N, GoodWords Config.params (wordsOfCycle Config.params w n)) {n r : Nat} (hn : n < N)
    (hr : r < Config.params.period) :
    ∃ u t, Runs (n * Config.params.period + r) s t ∧ OnGoodCycle u (wordsOfCycle Config.params w n) r t := by
  obtain ⟨u, hruns, idle, events⟩ := exists_start_of_cycle hs hg good hn.le
  have words : Gives u (wordsOfCycle Config.params w n) Config.params.period :=
    hg.drop (by rw [← Nat.succ_mul]; exact Nat.mul_le_mul_right _ hn) events
  obtain ⟨t, ht, -, on⟩ := exists_onGoodCycle idle words (good n hn) r hr.le
  exact ⟨u, t, runs_add hruns ht, on⟩

end

/-- Settles O49: an offset `j` lies in cycle `j / P` at its offset `j % P`, and there `OnGoodCycle` gives the strobe and
the report. -/
theorem equalCyclesReportAlike : Obligations.EqualCyclesReportAlike := by
  intro s w B N hs hg cycles j hj
  have strobeInside : strobeOffset Config.params < Config.params.period := by
    have := lastOffset_lt_period (c := .report) (by decide)
    rw [entryOffset] at this
    omega
  have periodPos : 0 < Config.params.period := Nat.zero_lt_of_lt strobeInside
  have hn : j / Config.params.period < N := Nat.div_lt_of_lt_mul (by rwa [Nat.mul_comm])
  have hr : j % Config.params.period < Config.params.period := Nat.mod_lt _ periodPos
  obtain ⟨u, t, hruns, ht⟩ := exists_onGoodCycle_of_cycles hs hg (fun n hn => (cycles n hn).1) hn hr
  have presented : presentedByte Config.params (wordsOfCycle Config.params w (j / Config.params.period)) = B :=
    (cycles _ hn).2
  refine ⟨t, by rwa [Nat.div_add_mod'] at hruns, (ht.reportStb_iff hr).trans ⟨fun strobe => ?_, ?_⟩,
    ht.faultStb_eq_false, fun strobe => ?_⟩
  · exact ⟨_, hn, by rw [← strobe, Nat.div_add_mod']⟩
  · rintro ⟨n, -, rfl⟩
    rw [Nat.mul_add_mod', Nat.mod_eq_of_lt strobeInside]
  · obtain ⟨sample, position⟩ := ht.reported ((ht.reportStb_iff hr).1 strobe).ge
    rw [presented] at sample position
    exact ⟨sample, position⟩

end Sys2Proof.Machine
end

section
/-! PROOFS. The serial transfer (42_spi_transfer.md): where `SCLK` is low, and the cycles in which `TRANSFER` samples
`MISO`. -/

namespace Sys2Proof.Machine

/-! ### The serial clock -/

/-- `SCLK` is low in the first half of each bit window of `TRANSFER`, and nowhere else (R100). -/
theorem sclk_low_iff (p : Params) (s : State) :
    (outputs p s).sclk = false ↔
      s.state = encodeCtl .transfer ∧ ∃ i < 8, 2 * p.halfCyc * i ≤ s.cnt ∧ s.cnt < 2 * p.halfCyc * i + p.halfCyc := by
  obtain ⟨c, hs⟩ := s.code_cases
  rw [outputs_of_code p hs, hs, encodeCtl_inj, ← lowHalf_iff_exists, Bool.not_eq_false', decide_eq_true_iff]

section
variable {p : Params} {s : State}

theorem sclk_high_of_not_transfer (h : s.state ≠ encodeCtl .transfer) : (outputs p s).sclk = true :=
  Bool.eq_true_of_not_eq_false fun low => h ((sclk_low_iff p s).1 low).1

/-- The settle tail follows the last window (R100). -/
theorem sclk_high_of_tail (h : 16 * p.halfCyc ≤ s.cnt) : (outputs p s).sclk = true := by
  refine Bool.eq_true_of_not_eq_false fun low => ?_
  obtain ⟨-, i, hi, -, upper⟩ := (sclk_low_iff p s).1 low
  have window := window_le p hi
  omega

/-- The last `H` cycles of a window (R100): the count's place in its window is not below `H`. -/
theorem sclk_high_of_secondHalf {i h : Nat} (hh : h < p.halfCyc)
    (hcnt : s.cnt = 2 * p.halfCyc * i + p.halfCyc + h) : (outputs p s).sclk = true := by
  refine Bool.eq_true_of_not_eq_false fun low => ?_
  obtain ⟨-, place⟩ := (lowHalf_iff_exists p s.cnt).2 ((sclk_low_iff p s).1 low).2
  rw [hcnt, Nat.add_assoc, Nat.mul_add_mod, Nat.mod_eq_of_lt (by omega)] at place
  omega

end

/-- Settles O29: `sclk_low_iff` places the low cycles, and `MOSI` and `DUMMY` are constants. -/
theorem serialWaveform : Obligations.SerialWaveform := by
  intro s
  refine ⟨⟨rfl, by decide⟩, sclk_high_of_not_transfer, fun ⟨idle, _⟩ => ?_, fun transfer => ⟨?_, ?_, ?_⟩⟩
  · exact sclk_high_of_not_transfer (by rw [idle]; decide)
  · rw [lowHalf_iff_exists, sclk_low_iff]
    exact and_iff_right transfer
  · refine fun i hi h hh => ⟨fun hcnt => ?_, sclk_high_of_secondHalf hh⟩
    exact (sclk_low_iff _ s).2 ⟨transfer, i, hi, by omega, by omega⟩
  · exact sclk_high_of_tail

/-! ### The sample cycles -/

/-- A bus fault keeps `TRANSFER` from sampling (R102; 60_exceptions.md R112). -/
theorem ruleTransfer_rx (p : Params) (s : State) :
    (ruleTransfer p s).rx =
      if s.busFault = false ∧ isSampleCycle p s.cnt = true then shiftIn s.rx s.miso else s.rx := by
  rcases ruleTransfer_cases p s with ⟨hb, ht⟩ | ⟨hb, -, ht⟩ | ⟨hb, -, ht⟩ <;> rw [ht]
  · simp [hb, State.raiseBusFault_eq]
  · simp [hb, sampled_eq]
  · simp [hb, sampled_eq]

section
variable {p : Params} {s : State}

/-- The sample and the counter are written together (R85): sampling or not, the count goes up. -/
theorem ruleTransfer_counts (hb : s.busFault = false) (below : s.cnt < lastCount p .transfer) :
    (ruleTransfer p s).cnt = s.cnt + 1 := by
  rw [ruleTransfer_of_noFault hb, if_neg (Nat.not_le_of_lt below), sampled_eq]
  exact tick_cnt_of_lt (c := .transfer) below

/-- The edge that ends the sample cycle of a window is the one that raises `SCLK` (R102). -/
theorem sclk_rises_after_sample (hH : 1 ≤ p.halfCyc) {i : Nat} (hi : i < 8) (hs : s.state = encodeCtl .transfer)
    (hb : s.busFault = false) (hcnt : s.cnt = 2 * p.halfCyc * i + p.halfCyc - 1) :
    (outputs p s).sclk = false ∧ (outputs p (ruleTransfer p s)).sclk = true := by
  have window := window_le p hi
  have below : s.cnt < lastCount p .transfer := by rw [lastCount, transferCyc]; omega
  have next := ruleTransfer_counts hb below
  exact ⟨(sclk_low_iff p s).2 ⟨hs, i, hi, by omega, by omega⟩,
    sclk_high_of_secondHalf (i := i) (h := 0) hH (by omega)⟩

end

/-- Settles O36: `isSampleCycle_iff_exists` gives the eight counts, and `ruleTransfer_rx` what each cycle does to `rx`. -/
theorem sampleCyclesAreTheEightWindows : Obligations.SampleCyclesAreTheEightWindows := by
  have windows := isSampleCycle_iff_exists halfCyc_pos
  refine ⟨fun t => isSampleCycle_iff.symm.trans (windows t), fun s => ⟨ruleTransfer Config.params s,
    exec_instr .transfer s, fun hb sample => ⟨?_, fun hs => ?_⟩, fun unread => ?_⟩⟩
  · exact (ruleTransfer_rx _ s).trans (if_pos ⟨hb, (windows _).2 sample⟩)
  · obtain ⟨i, hi, hcnt⟩ := sample
    exact sclk_rises_after_sample halfCyc_pos hi hs hb hcnt
  · refine (ruleTransfer_rx _ s).trans (if_neg fun ⟨hb, sample⟩ => ?_)
    exact unread.elim (fun fault => absurd (hb.symm.trans fault) (by decide)) (· ((windows _).1 sample))

end Sys2Proof.Machine
end

section
/-! PROOFS. The errors of a controller cycle (60_exceptions.md): where a bus fault is read, the path from an abort back
to `IDLE`, and the report of a sample that is no valid code. -/

namespace Sys2Proof.Machine

/-- `STEP` runs the rule of the code in `state`, with the levels of the cycle on the pins (R75). -/
theorem exec_step_of_code {s : State} {c : Ctl} (hs : s.state = encodeCtl c) (sr b m : Bool) :
    exec (.step sr b m) s = .next (ctlRule Config.params c (s.withPins (inputWord false sr b m))) :=
  congrArg Host.Outcome.next (ruleStep_of_code hs sr b m)

/-! ### The edge that aborts -/

/-- The edge of a cycle with a bus fault in one of the first four active states is the abort of R112. -/
theorem clkEdge_of_busFault (p : Params) {w : InWord} {s : State} {c : Ctl} (run : w[3] = false) (fault : w[1] = true)
    (hs : s.state = encodeCtl c) (reads : readsBusFault c = true) (hc : c ≠ .disableOut) :
    clkEdge p w s = (s.withPins w).raiseBusFault := by
  rw [clkEdge_of_code run hs, ctlRule_of_busFault reads hc (by simpa)]

/-- The four codes from which a bus fault aborts (R110, R112). -/
theorem exists_ctl_of_abortCode {x : StateCode}
    (h : x = 0b001#3 ∨ x = 0b010#3 ∨ x = 0b011#3 ∨ x = 0b100#3) :
    ∃ c, x = encodeCtl c ∧ readsBusFault c = true ∧ c ≠ .disableOut := by
  rcases h with h | h | h | h
  · exact ⟨.latchLow, h, rfl, by decide⟩
  · exact ⟨.latchHigh, h, rfl, by decide⟩
  · exact ⟨.enableOut, h, rfl, by decide⟩
  · exact ⟨.transfer, h, rfl, by decide⟩

/-! ### The way back to `IDLE` -/

/-- The controller state `j` cycles after the `DISABLE_OUT` cycle of an aborted cycle: one cycle of `DISABLE_OUT`, `R`
cycles of `REPORT`, then `IDLE` (R112, R115). -/
def abortCtl (p : Params) (j : Nat) : Ctl :=
  if j = 0 then .disableOut else if j ≤ p.repeatCyc then .report else .idle

@[simp] theorem abortCtl_zero (p : Params) : abortCtl p 0 = .disableOut := rfl

theorem abortCtl_of_report {p : Params} {j : Nat} (first : 1 ≤ j) (last : j ≤ p.repeatCyc) :
    abortCtl p j = .report := by
  rw [abortCtl, if_neg (by omega), if_pos last]

@[simp] theorem abortCtl_end (p : Params) : abortCtl p (p.repeatCyc + 1) = .idle := by simp [abortCtl]

/-- The registers `j` cycles after the `DISABLE_OUT` cycle of a controller cycle aborted in `s`: the flag is set up to
the exit of `REPORT`, and `rx` and the report registers are those of `s` (R112, R115). -/
structure OnAbortPath (s : State) (j : Nat) (t : State) : Prop where
  code : t.state = encodeCtl (abortCtl Config.params j)
  count : t.cnt = if j ≤ Config.params.repeatCyc then j - 1 else 0
  flag : t.faultQ = decide (j ≤ Config.params.repeatCyc)
  kept : t.rx = s.rx ∧ t.sampleQ = s.sampleQ ∧ t.posQ = s.posQ

theorem onAbortPath_raiseBusFault (s : State) (w : InWord) (rest : List Event) :
    OnAbortPath s 0 (State.withPins { s with events := rest } w).raiseBusFault :=
  ⟨rfl, by simp, by simp, rfl, rfl, rfl⟩

section
variable {s t : State} {w : Nat → InWord} {j : Nat}

/-- The rule of each state goes one cycle on along the path: `DISABLE_OUT` finds the flag set and writes no report, and
`REPORT` counts to its last cycle. No level of the cycle takes part. -/
theorem OnAbortPath.rule (h : OnAbortPath s j t) (hj : j ≤ Config.params.repeatCyc) :
    OnAbortPath s (j + 1) (ctlRule Config.params (abortCtl Config.params j) t) := by
  have hR := repeatCyc_pos
  obtain ⟨code, count, flag, kept⟩ := h
  rw [if_pos hj] at count
  rw [decide_eq_true hj] at flag
  rcases Nat.eq_zero_or_pos j with rfl | first
  · rw [abortCtl_zero, ctlRule, ruleDisableOut_of_fault (by simp [mergedFault, flag])]
    exact ⟨by simp [abortCtl_of_report le_rfl hR], by simp, by simpa using hR, kept⟩
  rw [abortCtl_of_report first hj] at code ⊢
  rw [ctlRule, ruleReport_eq, count]
  by_cases last : j = Config.params.repeatCyc
  · subst last
    rw [if_pos (by rfl)]
    exact ⟨by simp, by simp, by simp, kept⟩
  · have inside : j + 1 ≤ Config.params.repeatCyc := by omega
    have below : j - 1 < lastCount Config.params .report := by rw [lastCount]; omega
    rw [if_neg (Nat.not_le_of_lt below)]
    refine ⟨?_, ?_, by simpa [inside] using flag, kept⟩
    · rw [abortCtl_of_report (by omega) inside, State.tick_state, code]
    · rw [if_pos inside, tick_cnt_of_lt (c := .report) (by rwa [count])]
      omega

/-- Whatever its other levels are, an edge without a reset goes one cycle on along the path. -/
theorem OnAbortPath.edge (h : OnAbortPath s j t) {v : InWord} (run : v[3] = false) (hj : j ≤ Config.params.repeatCyc)
    (rest : List Event) : OnAbortPath s (j + 1) (clkEdge Config.params v { t with events := rest }) := by
  have underPins : OnAbortPath s j (State.withPins { t with events := rest } v) := ⟨h.code, h.count, h.flag, h.kept⟩
  rw [clkEdge_of_code (s := { t with events := rest }) run h.code]
  exact underPins.rule hj

/-- The registers at every offset of the path from an abort back to `IDLE`. -/
theorem exists_onAbortPath {u : State} (start : OnAbortPath s 0 u) (hg : Gives u w (Config.params.repeatCyc + 1))
    (run : ∀ i < Config.params.repeatCyc + 1, (w i)[3] = false) {j : Nat} (hj : j ≤ Config.params.repeatCyc + 1) :
    ∃ t, Runs j u t ∧ OnAbortPath s j t := by
  obtain ⟨t, hruns, -, ht⟩ := hg.runs (P := OnAbortPath s) start
    (fun i hi _ rest h => h.edge (run i hi) (Nat.le_of_lt_succ hi) rest) j hj
  exact ⟨t, hruns, ht⟩

/-- Within `REPORT` the path holds the code of `REPORT`, counts from its first cycle on, and has the flag set. -/
theorem OnAbortPath.report (h : OnAbortPath s j t) (first : 1 ≤ j) (last : j ≤ Config.params.repeatCyc) :
    t.state = encodeCtl .report ∧ t.cnt = j - 1 ∧ t.faultQ = true :=
  ⟨by rw [h.code, abortCtl_of_report first last], by rw [h.count, if_pos last], by rw [h.flag, decide_eq_true last]⟩

/-- Within `REPORT` the abort is reported by `FAULT_STB`, in the first cycle alone (R80, R115). -/
theorem OnAbortPath.strobes (h : OnAbortPath s j t) (first : 1 ≤ j) (last : j ≤ Config.params.repeatCyc) :
    (outputs Config.params t).faultStb = decide (j = 1) ∧ (outputs Config.params t).reportStb = false := by
  obtain ⟨hs, hcnt, hf⟩ := h.report first last
  have hstart : j - 1 = 0 ↔ j = 1 := by omega
  simp [outputs_of_code _ hs, hcnt, hf, hstart]

/-- The path ends in `IDLE` as every cycle finds it (R115). -/
theorem OnAbortPath.atIdle (h : OnAbortPath s (Config.params.repeatCyc + 1) t) : AtIdle t :=
  ⟨by rw [h.code, abortCtl_end], by simp [h.count], by simp [h.flag]⟩

end

/-- Settles O21: the first edge is the abort, and the offsets of `OnAbortPath` after it give the other clauses. -/
theorem abortPathRunsToIdle : Obligations.AbortPathRunsToIdle := by
  intro s w hg run fault hcode
  have hR := repeatCyc_pos
  obtain ⟨c, hs, reads, hc⟩ := exists_ctl_of_abortCode hcode
  rw [show 2 + Config.params.repeatCyc = Config.params.repeatCyc + 1 + 1 by omega] at hg run ⊢
  obtain ⟨rest, hevents, hstep, hgives⟩ := gives_step hg
  rw [clkEdge_of_busFault (s := { s with events := rest }) _ (run 0 (by omega)) fault hs reads hc] at hstep
  have start := onAbortPath_raiseBusFault s (w 0) rest
  have path {j : Nat} (hj : j ≤ Config.params.repeatCyc + 1) : ∃ t, Runs (j + 1) s t ∧ OnAbortPath s j t := by
    obtain ⟨t, hruns, ht⟩ := exists_onAbortPath start (hgives _ rfl) (fun i hi => run (i + 1) (by omega)) hj
    exact ⟨t, runs_succ.2 ⟨_, hstep, hruns⟩, ht⟩
  refine ⟨⟨_, runs_succ.2 ⟨_, hstep, runs_zero.2 rfl⟩, by rw [hevents]; rfl, ?_⟩, ?_, fun j lower upper => ?_, ?_⟩
  · simp [outputs_of_code _ start.code]
  · obtain ⟨t, hruns, ht⟩ := path (j := 1) (by omega)
    obtain ⟨hstate, hcnt, hf⟩ := ht.report le_rfl hR
    obtain ⟨strobe, noReport⟩ := ht.strobes le_rfl hR
    exact ⟨t, hruns, hstate, hcnt, hf, strobe, noReport, ht.kept⟩
  · obtain ⟨i, rfl⟩ : ∃ i, j = i + 1 := ⟨j - 1, by omega⟩
    obtain ⟨t, hruns, ht⟩ := path (j := i) (by omega)
    obtain ⟨hstate, -, -⟩ := ht.report (by omega) (by omega)
    obtain ⟨strobe, noReport⟩ := ht.strobes (by omega) (by omega)
    exact ⟨t, hruns, hstate, strobe.trans (decide_eq_false (by omega)), noReport, ht.kept⟩
  · obtain ⟨t, hruns, ht⟩ := path le_rfl
    obtain ⟨hstate, hcnt, hf⟩ := ht.atIdle
    exact ⟨t, hruns, hstate, hcnt, hf, ht.kept⟩

/-! ### Where a bus fault is not read -/

/-- Settles O23: R110 names the states whose rule reads `BUS_FAULT`, and these three are not among them. -/
theorem busFaultIgnoredWhereNotRead : Obligations.BusFaultIgnoredWhereNotRead := by
  intro sr m s hcode
  have ignored {c : Ctl} (hs : s.state = encodeCtl c) (unread : readsBusFault c = false) :
      ∃ t, exec (.step sr true m) s = .next t ∧
        exec (.step sr false m) s = .next { t with pins := inputWord false sr false m } := by
    refine ⟨_, exec_step_of_code hs sr true m, ?_⟩
    rw [exec_step_of_code hs, ctlRule_withPins (v := inputWord false sr true m)]
    · rfl
    · simp
    · simp [unread]
    · simp
  rcases hcode with hs | hs | hs
  · exact ignored (c := .idle) hs rfl
  · exact ignored (c := .report) hs rfl
  · exact ignored (c := .reserved) hs rfl

/-! ### `DISABLE_OUT` -/

/-- Settles O22: a bus fault in `DISABLE_OUT` is enough for the merged flag. -/
theorem faultInDisableOutMarksTheCycle : Obligations.FaultInDisableOutMarksTheCycle := by
  intro sr m s hs
  rw [exec_step_of_code (c := .disableOut) hs, ctlRule, ruleDisableOut_of_fault (by simp [mergedFault])]
  rfl

/-- Settles O25: `DISABLE_OUT` without a fault writes the report from `rx`, whatever the ROM holds there. -/
theorem decodeMissIsReportedLikeAnyValue : Obligations.DecodeMissIsReportedLikeAnyValue := by
  intro sr m s hs hf miss
  refine ⟨_, exec_step_of_code (c := .disableOut) hs sr false m, ?_⟩
  rw [ctlRule, ruleDisableOut_of_noFault (by simp [mergedFault, hf])]
  refine ⟨miss, rfl, ?_, rfl, rfl, rfl⟩
  rw [outputs_of_code (c := .report) _ rfl]
  rfl

end Sys2Proof.Machine
end

section
/-! PROOFS. Reset (70_reset_and_hazards.md): what a reset edge loads and leaves, and the first controller cycle
after it. -/

namespace Sys2Proof.Machine

/-! ### The reset edge -/

/-- A reset edge writes the six registers and the recorded levels, and no other field (R123). -/
theorem ruleReset_eq (x : BitVec 3) (s : State) :
    ruleReset x s =
      { s with state := 0b000#3, cnt := 0, rx := 0x00#8, sampleQ := 0x00#8, posQ := 200#8, faultQ := false,
               pins := 1#1 ++ x } := rfl

/-- Reset registers are those of `IDLE` as every controller cycle finds it. -/
theorem RegistersReset.atIdle {s : State} (h : RegistersReset s) : AtIdle s := by
  obtain ⟨state, cnt, -, -, -, faultQ⟩ := h
  exact ⟨state, cnt, faultQ⟩

/-- A reset edge on reset registers changes the recorded levels alone. -/
theorem ruleReset_of_registersReset {s : State} (h : RegistersReset s) (x : BitVec 3) :
    ruleReset x s = s.withPins (1#1 ++ x) := by
  obtain ⟨state, cnt, rx, sampleQ, posQ, faultQ⟩ := h
  simp only [ruleReset_eq, State.withPins, state, cnt, rx, sampleQ, posQ, faultQ]

/-- An edge without `RST` in `IDLE` is the operation `IDLE` under the levels of the cycle. -/
theorem exec_step_of_idle {s : State} (hs : s.state = encodeCtl .idle) (sr b m : Bool) :
    exec (.step sr b m) s = exec .idle (s.withPins (inputWord false sr b m)) :=
  (exec_step_of_code hs sr b m).trans (exec_instr .idle _).symm

/-- Settles O20: the registers after the edge are reset, so a second reset edge keeps them and `IDLE` runs next. -/
theorem resetLoadsEveryRegister : Obligations.ResetLoadsEveryRegister := by
  intro x s
  have reset := registersReset_ruleReset x s
  exact ⟨ruleReset x s, rfl, ruleReset_eq x s,
    fun y => congrArg Host.Outcome.next (ruleReset_of_registersReset reset y),
    exec_step_of_idle reset.atIdle.1⟩

/-! ### The first controller cycle after a reset -/

/-- After a reset edge and good words, the registers are those of a good cycle that starts with the next edge. -/
theorem exists_onGoodCycle_after_reset {s : State} {w : Nat → InWord} (hg : Gives s w (1 + Config.params.period))
    (hrst : (w 0)[3] = true) (good : GoodWords Config.params fun j => w (1 + j)) :
    ∃ u, Runs 1 s u ∧ RegistersReset u ∧
      ∀ j ≤ Config.params.period, ∃ t, Runs (1 + j) s t ∧ OnGoodCycle u (fun j => w (1 + j)) j t := by
  obtain ⟨rest, hevents, hstep, -⟩ := gives_step (Nat.add_comm 1 _ ▸ hg)
  have first := runs_succ.2 ⟨_, hstep, runs_zero.2 rfl⟩
  have reset := registersReset_clkEdge Config.params hrst { s with events := rest }
  have queue : (clkEdge Config.params (w 0) { s with events := rest }).events = s.events.drop 1 := by
    rw [clkEdge_events, hevents, List.drop_one, List.tail_cons]
  refine ⟨_, first, reset, fun j hj => ?_⟩
  obtain ⟨t, hruns, -, ht⟩ := exists_onGoodCycle reset.atIdle (hg.drop le_rfl queue) good j hj
  exact ⟨t, runs_add first hruns, ht⟩

/-- `LATCH_LOW` follows `IDLE` in a good cycle. -/
theorem OnGoodCycle.latchLow {s t : State} {w : Nat → InWord} (h : OnGoodCycle s w 1 t) :
    t.state = encodeCtl .latchLow := by
  have inside : 1 < Config.params.period := by rw [period_eq]; omega
  have second : cycleCtl Config.params 1 = .latchLow :=
    (cycleCtl_eq_iff inside (by decide)).2 ⟨le_rfl, Nat.le_add_right _ _⟩
  rw [h.code, second]

/-- Settles O50: after the reset edge the block is in `IDLE`, and `OnGoodCycle` gives the state and the strobe at every
offset of the cycle that starts there. -/
theorem firstReportAfterReset : Obligations.FirstReportAfterReset := by
  intro s w hg hrst good
  obtain ⟨u, first, reset, cycle⟩ := exists_onGoodCycle_after_reset hg hrst good
  refine ⟨⟨u, first, reset⟩, ?_, fun j lower upper => ?_⟩
  · obtain ⟨t, hruns, ht⟩ := cycle 1 (by rw [period_eq]; omega)
    exact ⟨t, hruns, ht.latchLow, by simp [outputs_of_code _ ht.latchLow]⟩
  · obtain ⟨i, rfl⟩ := Nat.exists_eq_add_of_le lower
    have inside : i < Config.params.period := Nat.lt_of_add_lt_add_left upper
    obtain ⟨t, hruns, ht⟩ := cycle i inside.le
    refine ⟨t, hruns, (ht.reportStb_iff inside).trans ?_⟩
    rw [strobeOffset]
    omega

end Sys2Proof.Machine
end

section
/-! PROOFS. The words of the three formats (30_encoding.md section 1): decoding and encoding are inverse to each other,
format by format; and what one step runs (41_sampling_fsm.md section 1). -/

namespace Sys2Proof

/-! ### Decoding the word of an operation -/

/-- A reset word decodes to `RESET` with its three low bits. -/
theorem decodeInput_reset (x : BitVec 3) : decodeInput (1#1 ++ x) = .reset x := by
  have fields : (1#1 ++ x)[3] = true ∧ (1#1 ++ x).extractLsb' 0 3 = x := by revert x; decide
  obtain ⟨hrst, hx⟩ := fields
  rw [decodeInput_of_rst hrst, hx]

theorem decodeInput_inputWord_run (sr b m : Bool) : decodeInput (inputWord false sr b m) = .step sr b m := by
  simp [decodeInput_of_run]

/-- The decoder is a left inverse of the encoder, in each of the three formats. -/
theorem decode_encode (i : Instr) : decode (encode i).1 (encode i).2 = .ok i := by
  cases i with
  | decode a => rfl
  | idle | latchLow | latchHigh | enableOut | transfer | disableOut | report | reserved => exact decode_state _
  | reset x => exact (decode_input _).trans (congrArg Except.ok (decodeInput_reset x))
  | step sr b m => exact (decode_input _).trans (congrArg Except.ok (decodeInput_inputWord_run sr b m))

/-- Settles O1: `decode_encode` asks nothing of the operation, since every operand its type holds is legal. -/
theorem decodeOfEncodeIsTheOperation : Obligations.DecodeOfEncodeIsTheOperation := fun i _ => decode_encode i

/-! ### Encoding the operation of a word -/

theorem fits_iff {f : Format} {b : Byte} : f.fits b = true ↔ b.toNat < 2 ^ f.width := decide_eq_true_iff

/-- A byte below `2^n` is its low `n` bits with zeros above them. -/
theorem eq_zero_append_of_lt {m n : Nat} {b : BitVec (m + n)} (h : b.toNat < 2 ^ n) :
    b = 0#m ++ b.extractLsb' 0 n := by
  apply BitVec.eq_of_toNat_eq
  simp [Nat.mod_eq_of_lt h]

/-- The encoder gives an `INPUT` word back. -/
theorem encode_decodeInput (w : InWord) : encode (decodeInput w) = (.input, 0#4 ++ w) := by
  revert w; decide

/-- A word of a format decodes, and the encoder gives the format and the word back. -/
theorem exists_decode_of_fits {f : Format} {b : Byte} (h : f.fits b = true) :
    ∃ i, decode f b = .ok i ∧ encode i = (f, b) := by
  have low := fits_iff.1 h
  cases f with
  | rom => exact ⟨.decode b, rfl, rfl⟩
  | state =>
    have word : b = 0#5 ++ b.extractLsb' 0 3 := eq_zero_append_of_lt (m := 5) (n := 3) low
    exact ⟨_, if_pos h, by rw [encode_instr_decodeCtl, ← word]⟩
  | input =>
    have word : b = 0#4 ++ b.extractLsb' 0 4 := eq_zero_append_of_lt (m := 4) (n := 4) low
    exact ⟨_, if_pos h, by rw [encode_decodeInput, ← word]⟩

/-- A byte wider than the format is rejected (R47). -/
theorem exists_error_of_not_fits {f : Format} {b : Byte} (h : ¬ f.fits b = true) : ∃ e, decode f b = .error e := by
  cases f with
  | rom => exact absurd (fits_iff.2 b.isLt) h
  | state => exact ⟨.notAStateCode, if_neg h⟩
  | input => exact ⟨.notAnInputWord, if_neg h⟩

/-- Settles O2: a byte that fits its format decodes and comes back, and one that does not is rejected. -/
theorem encodeOfDecodeIsTheWord : Obligations.EncodeOfDecodeIsTheWord := by
  intro f b
  rw [← Nat.not_lt, ← fits_iff]
  by_cases h : f.fits b = true
  · obtain ⟨i, hdecode, hencode⟩ := exists_decode_of_fits h
    simp [h, hdecode, hencode]
  · obtain ⟨e, hdecode⟩ := exists_error_of_not_fits h
    simp [h, hdecode]

/-- Settles O3: the words are values of `decode_state` and `decode_input`, and bit 3 or bit 4 is too wide. -/
theorem writtenWordsDecode : Obligations.WrittenWordsDecode :=
  ⟨rfl, decode_state 0b001#3, decode_state 0b101#3, decode_state 0b111#3, by decide, decode_input 0b1000#4,
    decode_input 0b0100#4, decode_input 0b0010#4, decode_input 0b0001#4, by decide⟩

end Sys2Proof

namespace Sys2Proof.Machine

/-! ### What a step runs -/

/-- A step runs the operation of the event at the head of the queue. -/
theorem step_of_decoded {s : State} {e : Event} {rest : List Event} {i : Instr} (h : s.events = e :: rest)
    (he : e.decoded = .ok i) : step s = exec i { s with events := rest } := by
  simp [step, State.fetch, h, he]

/-- Settles O6: each event is decoded in its own format, and a free word as a `CLK` cycle. -/
theorem stepRunsTheDecodedOperation : Obligations.StepRunsTheDecodedOperation := by
  refine fun s => ⟨fun w rest h => ?_, fun a rest h => ?_, fun h => ?_⟩
  · exact ⟨_, decode_input w, step_of_decoded h rfl⟩
  · exact ⟨_, rfl, step_of_decoded h rfl⟩
  · exact ⟨_, decode_input _, by simp [step, State.fetch, h, Event.decoded]⟩

/-- Settles O7: the row of the code in `state` runs its rule, and that rule under the levels of the cycle is `STEP`. -/
theorem stepOperationRunsTheStateCode : Obligations.StepOperationRunsTheStateCode := fun _ _ _ s =>
  ⟨_, _, decode_state s.state, (exec_instr _ _).symm, rfl⟩

/-- Settles O9: `exec_next` for the operations; of the events only an illegal one is not decoded. -/
theorem noConditionIsFatal : Obligations.NoConditionIsFatal := by
  refine ⟨exec_next, fun s legal => ?_⟩
  match he : s.events with
  | [] => exact ⟨_, step_of_nil he⟩
  | .clk w :: rest => exact ⟨_, step_of_clk he⟩
  | .romRead a :: rest => exact ⟨_, step_of_romRead he⟩
  | .illegal e :: rest => exact absurd he (legal e rest)

end Sys2Proof.Machine
end

section
/-! PROOFS. The invariant and the elaboration (10_state.md section 5; 00_scope.md section 3): the invariant at reset, after
a step and in every reachable state; the counter's width and its modulus; the structural constraints and the contract. -/

namespace Sys2Proof

/-! ### The tables the constraints allow -/

section
variable {T : Byte → Byte}

/-- R67, entry by entry. -/
theorem Machine.LegalTable.eq_known (h : Machine.LegalTable T) :
    ∀ e ∈ knownEntries, T (BitVec.ofNat 8 e.1) = BitVec.ofNat 8 e.2 := by
  simpa [knownEntries, sentinel] using h.known

theorem Machine.LegalTable.eq_of_lookup (h : Machine.LegalTable T) {a : Byte} {d : Nat}
    (known : knownEntries.lookup a.toNat = some d) : T a = BitVec.ofNat 8 d := by
  simpa using h.eq_known _ (mem_knownEntries_of_lookup known)

/-- R64 and R65: 128 valid codes with 128 different positions hold every position. -/
theorem Machine.LegalTable.surjective (h : Machine.LegalTable T) {q : Byte} (hq : q ≤ 127#8) : ∃ a, T a = q := by
  let codes := allBytes.filter fun a => decide (T a ≤ 127#8)
  let positions := allBytes.filter fun d => decide (d ≤ 127#8)
  have nodup : (codes.map T).Nodup := (allBytes_nodup.filter _).map_on fun a ha b _ hab =>
    h.injective a b (of_decide_eq_true (List.mem_filter.1 ha).2) hab
  have within : codes.map T ⊆ positions := by
    intro d hd
    obtain ⟨a, ha, rfl⟩ := List.mem_map.1 hd
    exact List.mem_filter.2 ⟨mem_allBytes _, (List.mem_filter.1 ha).2⟩
  have size : positions.length = 128 := by decide +kernel
  have all : (codes.map T).Perm positions :=
    (List.subperm_of_subset nodup within).perm_of_length_le (by rw [size, List.length_map, h.count])
  obtain ⟨a, -, ha⟩ := List.mem_map.1 (all.mem_iff.2 (List.mem_filter.2 ⟨mem_allBytes q, decide_eq_true hq⟩))
  exact ⟨a, ha⟩

/-- The check of the constraints passes on every table that keeps them. -/
theorem tableLegal_of_legalTable (h : Machine.LegalTable T) : tableLegal T = true := by
  have valid (a : Byte) : (T a).toNat ≤ 127 ↔ T a ≤ 127#8 := Iff.rfl
  simp only [tableLegal, Bool.and_eq_true, tableRange, tableCount, tableInjective, tableInvalid, tableKnown,
    validCodes, valid, List.all_eq_true, Bool.or_eq_true, decide_eq_true_eq, beq_iff_eq, nPos]
  refine ⟨⟨⟨⟨fun a _ => h.range a, h.count⟩, ?_⟩, fun a ha => ?_⟩, h.eq_known⟩
  · exact (allBytes_nodup.filter _).map_on fun a ha b _ hab =>
      h.injective a b (of_decide_eq_true (List.mem_filter.1 ha).2) hab
  · exact h.invalid (by simpa using (List.mem_filter.1 ha).2)

end

/-- Counts of at least 1 and a table of the model's form make a machine (R9, first set). -/
theorem structural_of_pos {p : Params} {σ : Equiv.Perm (Fin 249)} (hH : 1 ≤ p.halfCyc) (hS : 1 ≤ p.settleCyc)
    (hR : 1 ≤ p.repeatCyc) (hT : p.table = tableOf σ) : p.structural = true := by
  simp [Params.structural, hH, hS, hR, hT, tableLegal_of_legalTable (Machine.legalTable_tableOf σ)]

/-! ### The width of the counter -/

/-- `CNT_W` is the least sufficient width. -/
theorem cntW_le {p : Params} {n : Nat} (h : p.cntSpan ≤ 2 ^ n) : p.cntW ≤ n := by
  unfold Params.cntW
  split
  · exact Nat.zero_le n
  · exact (Nat.log2_lt (by omega)).2 (by omega)

theorem cntSpan_le_iff {p : Params} {n : Nat} :
    p.cntSpan ≤ n ↔ p.settleCyc ≤ n ∧ 16 * p.halfCyc + p.settleCyc ≤ n ∧ p.repeatCyc ≤ n := by
  simp only [Params.cntSpan, Nat.max_le]

/-- A structural elaboration whose longest duration is exactly `2^CNT_W`: `TRANSFER` lasts 32 cycles (log 15). -/
def powerOfTwoParams : Params :=
  { fClk := 2000000, tRepeatMs := 1, settleCyc := 16, halfCyc := 1, repeatCyc := 1, table := tableOf (Equiv.refl _) }

end Sys2Proof

namespace Sys2Proof.Machine

/-! ### The invariant -/

/-- Settles O40: an edge is a reset or one of the moves of `RuleStep`, and each keeps the invariant. -/
theorem stepKeepsTheInvariant : Obligations.StepKeepsTheInvariant := fun _ _ => step_keeps_stateInv

/-- Settles O39: the bounds at count 0, a clear flag, and the known entry of address `8'h00`. -/
theorem resetMeetsTheInvariant : Obligations.ResetMeetsTheInvariant :=
  ⟨stateInv_of_registersReset ⟨rfl, rfl, rfl, rfl, rfl, rfl⟩, fun _ => stateInv_of_registersReset⟩

/-- R33: the invariant rules out the reserved code. -/
theorem StateInv.ne_reserved {s : State} (hi : StateInv s) : s.state ≠ encodeCtl .reserved := fun hs =>
  ((cntBounds_iff hs).1 hi.bounds).1 rfl

/-- Settles O42: the four clauses are parts of the invariant, which every reachable state meets. -/
theorem reachableStatesKeepTheBounds : Obligations.ReachableStatesKeepTheBounds := by
  intro s reached
  have hi := reached.stateInv
  exact ⟨hi.bounds, hi.ne_reserved, hi.idleClear, hi.cnt_lt⟩

/-! ### The counter -/

/-- Settles O44: each duration is below the span, and any width that holds all three holds the span. -/
theorem counterWidthIsTheLeast : Obligations.CounterWidthIsTheLeast := fun p =>
  ⟨cntSpan_le_iff.1 (cntSpan_le p), fun _ hS hT hR => cntW_le (cntSpan_le_iff.2 ⟨hS, hT, hR⟩)⟩

/-- Refutes O43: with `S = 16`, `H = 1`, `R = 1` the last count of `TRANSFER` is 31, and `CNT_W` is 5. -/
theorem not_counterPlusOneStaysBelowItsModulus : ¬ Obligations.CounterPlusOneStaysBelowItsModulus := by
  intro below
  have structural : powerOfTwoParams.structural = true :=
    structural_of_pos (σ := Equiv.refl _) (by decide) (by decide) (by decide) rfl
  have width : powerOfTwoParams.cntW = 5 := by decide
  have wraps := below powerOfTwoParams structural 31 (by decide)
  rw [width] at wraps
  exact absurd wraps (by decide)

/-! ### The elaboration -/

/-- Settles O57: the counts are successors, and the table is of the model's form. -/
theorem elaborationIsStructural : Obligations.ElaborationIsStructural :=
  structural_of_pos halfCyc_pos settleCyc_pos repeatCyc_pos rfl

/-- Settles O58: the contract makes `F_CLK` an exact multiple of `2 * F_SCLK`, and rounds the settle delay up. -/
theorem contractGivesTheSerialRate : Obligations.ContractGivesTheSerialRate := by
  intro p contract
  simp only [Params.contract, fSclk, tSettleMs, Bool.and_eq_true, beq_iff_eq] at contract
  obtain ⟨⟨⟨multiple, half⟩, settle⟩, -⟩ := contract
  have roundedUp := of_decide_eq_true settle
  omega

end Sys2Proof.Machine
end

section
/-! PROOFS. The form of the open table is exact (40_gray_decoder.md section 2): every table that keeps R63 to R67 is given
by a permutation of the open addresses, built from the places of the positions it holds there. -/

namespace Sys2Proof.Machine

variable {T : Byte → Byte}

/-- What a legal table holds at an open address is an open position or `SENTINEL`: the known positions are taken. -/
theorem LegalTable.mem_openPositions (h : LegalTable T) {i : Fin 249} (hi : T (openAddr i) ≤ 127#8) :
    (T (openAddr i)).toNat ∈ openPositions := by
  refine Sys2Proof.mem_openPositions.2 ⟨Nat.lt_succ_of_le (BitVec.le_def.1 hi), fun e he hword => ?_⟩
  have word : T (openAddr i) = T (BitVec.ofNat 8 e.1) := by rw [h.eq_known e he, hword]; simp
  have known := lookup_of_mem_knownEntries e he
  rw [← h.injective _ _ hi word, lookup_openAddr] at known
  exact absurd known (by simp)

/-- The address of an open position is an open one. -/
theorem LegalTable.exists_openAddr (h : LegalTable T) {q : Nat} (hq : q ∈ openPositions) :
    ∃ i, T (openAddr i) = BitVec.ofNat 8 q := by
  obtain ⟨a, ha⟩ := h.surjective (openPosition_le hq)
  cases hk : knownEntries.lookup a.toNat with
  | some d => exact absurd (ha.symm.trans (h.eq_of_lookup hk)) (openPosition_ne_known hq (mem_knownEntries_of_lookup hk))
  | none => exact ⟨openRank a, by rw [openAddr_openRank hk, ha]⟩

/-- The place among the open positions of the one that an open address with a valid code holds. -/
def LegalTable.place (h : LegalTable T) (i : { i : Fin 249 // T (openAddr i) ≤ 127#8 }) :
    { k : Fin 249 // k.val < openPositions.length } :=
  ⟨openPositionRank _ (h.mem_openPositions i.2), List.idxOf_lt_length_of_mem (h.mem_openPositions i.2)⟩

theorem LegalTable.place_injective (h : LegalTable T) : Function.Injective h.place := by
  rintro ⟨i, hi⟩ ⟨k, hk⟩ same
  have rank : openPositions.idxOf (T (openAddr i)).toNat = openPositions.idxOf (T (openAddr k)).toNat :=
    congrArg (fun x => x.val.val) same
  have word := BitVec.eq_of_toNat_eq ((List.idxOf_inj (h.mem_openPositions hi)).1 rank)
  have addr := congrArg openRank (h.injective _ _ hi word)
  exact Subtype.ext (by rwa [openRank_openAddr, openRank_openAddr] at addr)

theorem LegalTable.place_surjective (h : LegalTable T) : Function.Surjective h.place := by
  rintro ⟨k, hk⟩
  have hq := List.getElem_mem hk
  obtain ⟨i, hi⟩ := h.exists_openAddr hq
  refine ⟨⟨i, hi ▸ openPosition_le hq⟩, Subtype.ext (Fin.ext ?_)⟩
  change openPositions.idxOf (T (openAddr i)).toNat = k.val
  rw [hi, toNat_ofNat_openPosition hq, openPositions_nodup.idxOf_getElem]

/-- The open addresses with a valid code and the places of the open positions are matched one to one. -/
noncomputable def LegalTable.placeEquiv (h : LegalTable T) :
    { i : Fin 249 // T (openAddr i) ≤ 127#8 } ≃ { k : Fin 249 // k.val < openPositions.length } :=
  Equiv.ofBijective h.place ⟨h.place_injective, h.place_surjective⟩

/-- The permutation that describes a legal table: an open address with a valid code goes to the place of its position,
and the others go to the places past the last position, in any way. -/
noncomputable def LegalTable.perm (h : LegalTable T) : Equiv.Perm (Fin 249) := h.placeEquiv.extendSubtype

theorem LegalTable.perm_of_valid (h : LegalTable T) {i : Fin 249} (hi : T (openAddr i) ≤ 127#8) :
    (h.perm i).val = openPositions.idxOf (T (openAddr i)).toNat :=
  congrArg Fin.val (h.placeEquiv.extendSubtype_apply_of_mem i hi)

theorem LegalTable.perm_of_invalid (h : LegalTable T) {i : Fin 249} (hi : ¬ T (openAddr i) ≤ 127#8) :
    openPositions.length ≤ (h.perm i).val :=
  Nat.le_of_not_lt (h.placeEquiv.extendSubtype_not_mem i hi)

/-- A legal table is the one its permutation describes. -/
theorem LegalTable.tableOf_perm (h : LegalTable T) (a : Byte) : tableOf h.perm a = T a := by
  cases hk : knownEntries.lookup a.toNat with
  | some d => rw [tableOf_known _ hk, h.eq_of_lookup hk]
  | none =>
    rw [tableOf_open _ hk]
    have addr := openAddr_openRank hk
    by_cases valid : T a ≤ 127#8
    · rw [← addr] at valid
      have held := h.mem_openPositions valid
      rw [h.perm_of_valid valid, List.getD_eq_getElem _ _ (List.idxOf_lt_length_of_mem held), List.getElem_idxOf, addr]
      simp
    · have past := h.perm_of_invalid (i := openRank a) (by rwa [addr])
      rw [List.getD_eq_default _ _ past, h.invalid valid, sentinel]

/-- Settles O55: `legalTable_tableOf` one way, and the permutation of a legal table the other way. -/
theorem legalTablesAreExactlyTheModels : Obligations.LegalTablesAreExactlyTheModels :=
  ⟨legalTable_tableOf, fun _ h => ⟨h.perm, h.tableOf_perm⟩⟩

end Sys2Proof.Machine
end

section
/-! PROOFS. Who writes which register (10_state.md section 1), which inputs a state does not read (41_sampling_fsm.md
section 3; 60_exceptions.md section 3), and what the outputs tell (41_sampling_fsm.md section 2; 60_exceptions.md
section 1). -/

namespace Sys2Proof.Machine

/-! ### What each rule leaves in a register -/

section
variable (p : Params) (c : Ctl) (s : State)

/-- `rx` has two writers, the exit of `ENABLE_OUT` and a sample cycle of `TRANSFER`, both in a cycle without a bus
fault (R18). -/
theorem ctlRule_rx :
    (ctlRule p c s).rx =
      if c = .enableOut ∧ s.busFault = false ∧ p.settleCyc - 1 ≤ s.cnt then 0x00#8
      else if c = .transfer ∧ s.busFault = false ∧ isSampleCycle p s.cnt = true then shiftIn s.rx s.miso
      else s.rx := by
  cases c with
  | idle => rcases ruleIdle_cases s with ⟨-, h⟩ | ⟨-, h⟩ <;> simp [ctlRule, h]
  | latchLow => rcases ruleLatchLow_cases p s with ⟨-, h⟩ | ⟨-, -, h⟩ | ⟨-, -, h⟩ <;> simp [ctlRule, h]
  | latchHigh => rcases ruleLatchHigh_cases s with ⟨-, h⟩ | ⟨-, h⟩ <;> simp [ctlRule, h]
  | enableOut =>
    rcases ruleEnableOut_cases p s with ⟨hb, h⟩ | ⟨hb, full, h⟩ | ⟨hb, below, h⟩ <;> rw [ctlRule, h]
    · simp [hb]
    · simp [hb, full]
    · simp [hb, Nat.not_le_of_lt below]
  | transfer => simpa [ctlRule] using ruleTransfer_rx p s
  | disableOut => rcases ruleDisableOut_cases p s with ⟨-, h⟩ | ⟨-, h⟩ <;> simp [ctlRule, h]
  | report => rcases ruleReport_cases p s with ⟨-, h⟩ | ⟨-, h⟩ <;> simp [ctlRule, h]
  | reserved => simp [ctlRule, ruleReserved]

/-- The report registers have one writer, `DISABLE_OUT` without a fault, which writes both (R19, R20). -/
theorem ctlRule_reportPair :
    ((ctlRule p c s).sampleQ, (ctlRule p c s).posQ) =
      if c = .disableOut ∧ mergedFault s = false then (s.rx, memRead p s.rx) else (s.sampleQ, s.posQ) := by
  split_ifs with writes
  · obtain ⟨rfl, good⟩ := writes
    rw [ctlRule, ruleDisableOut_of_noFault good]
    rfl
  · rcases (ctlRule_ruleStep p c s).reportPair with ⟨hq, hp⟩ | ⟨hc, good, -, -⟩
    · rw [hq, hp]
    · exact absurd ⟨hc, good⟩ writes

/-- The flag keeps or takes a bus fault where one is read, and the exit of `REPORT` and the reserved code clear it
(R21). -/
theorem ctlRule_faultQ :
    (ctlRule p c s).faultQ =
      if c = .idle then s.faultQ
      else if c = .report then (if p.repeatCyc - 1 ≤ s.cnt then false else s.faultQ)
      else if c = .reserved then false
      else s.faultQ || s.busFault := by
  cases c with
  | idle => rcases ruleIdle_cases s with ⟨-, h⟩ | ⟨-, h⟩ <;> simp [ctlRule, h]
  | latchLow => rcases ruleLatchLow_cases p s with ⟨hb, h⟩ | ⟨hb, -, h⟩ | ⟨hb, -, h⟩ <;> simp [ctlRule, h, hb]
  | latchHigh => rcases ruleLatchHigh_cases s with ⟨hb, h⟩ | ⟨hb, h⟩ <;> simp [ctlRule, h, hb]
  | enableOut => rcases ruleEnableOut_cases p s with ⟨hb, h⟩ | ⟨hb, -, h⟩ | ⟨hb, -, h⟩ <;> simp [ctlRule, h, hb]
  | transfer =>
    rcases ruleTransfer_cases p s with ⟨hb, h⟩ | ⟨hb, -, h⟩ | ⟨hb, -, h⟩ <;> simp [ctlRule, h, hb, sampled_eq]
  | disableOut => exact State.setFault_faultQ _ _
  | report => simp [ctlRule, ruleReport_eq, lastCount, apply_ite State.faultQ]
  | reserved => simp [ctlRule, ruleReserved]

end

/-! ### The writers -/

/-- `STEP` in terms of the rule: the controller state is that of the code, and the levels are those of the cycle. -/
theorem exists_exec_step (sr b m : Bool) (s : State) :
    ∃ c t, s.state = encodeCtl c ∧ exec (.step sr b m) s = .next t ∧
      t = ctlRule Config.params c (s.withPins (inputWord false sr b m)) := by
  obtain ⟨c, hs⟩ := s.code_cases
  exact ⟨c, _, hs, exec_step_of_code hs sr b m, rfl⟩

/-- Settles O32: `ctlRule_rx` for `STEP`; a reset loads `8'h00`, and `DECODE` writes no register. -/
theorem writersOfRx : Obligations.WritersOfRx := by
  refine ⟨fun sr b m s => ?_, fun x s => ⟨ruleReset x s, rfl, rfl⟩, fun a s => ⟨_, exec_decode a s, rfl⟩⟩
  obtain ⟨c, t, hs, hexec, rfl⟩ := exists_exec_step sr b m s
  refine ⟨_, hexec, ?_⟩
  have code (d : Ctl) : s.state = encodeCtl d ↔ c = d := by rw [hs, encodeCtl_inj]
  simp only [ctlRule_rx, State.withPins_busFault, State.withPins_cnt, State.withPins_rx, State.withPins_miso,
    inputWord_busFault, inputWord_miso, isSampleCycle_iff, ← code]
  rfl

/-- Settles O33: `ctlRule_reportPair` for `STEP`, through the ports the pair drives. -/
theorem writersOfTheReport : Obligations.WritersOfTheReport := by
  refine ⟨fun sr b m s => ?_, fun x s => ⟨ruleReset x s, rfl, rfl, rfl⟩,
    fun a s => ⟨_, exec_decode a s, rfl, rfl⟩⟩
  obtain ⟨c, t, hs, hexec, rfl⟩ := exists_exec_step sr b m s
  refine ⟨_, hexec, (ctlRule_reportPair _ c _).trans ?_⟩
  have code : s.state = encodeCtl .disableOut ↔ c = .disableOut := by rw [hs, encodeCtl_inj]
  simp only [mergedFault, Bool.or_eq_false_iff, State.withPins_faultQ, State.withPins_busFault, inputWord_busFault,
    ← code]
  rfl

/-- Settles O34: `ctlRule_faultQ` for `STEP`; a reset clears the flag, and `DECODE` writes no register. -/
theorem writersOfTheFlag : Obligations.WritersOfTheFlag := by
  refine ⟨fun sr b m s => ?_, fun x s => ⟨ruleReset x s, rfl, rfl⟩, fun a s => ⟨_, exec_decode a s, rfl⟩⟩
  obtain ⟨c, t, hs, hexec, rfl⟩ := exists_exec_step sr b m s
  refine ⟨_, hexec, ?_⟩
  have code (d : Ctl) : s.state = encodeCtl d ↔ c = d := by rw [hs, encodeCtl_inj]
  simp only [ctlRule_faultQ, State.withPins_faultQ, State.withPins_busFault, State.withPins_cnt, inputWord_busFault,
    ← code]
  rfl

/-! ### Levels that are not read -/

/-- Settles O37: outside the sample cycles `ctlRule_withPins` asks nothing of `MISO`, and a bus fault in a sample cycle
aborts before the sample. -/
theorem misoReadOnlyInSampleCycles : Obligations.MisoReadOnlyInSampleCycles := by
  intro sr b s unread
  obtain ⟨c, hs⟩ := s.code_cases
  refine ⟨_, exec_step_of_code hs sr b true, (exec_step_of_code hs sr b false).trans (congrArg Host.Outcome.next ?_)⟩
  by_cases fault : c = .transfer ∧ b = true
  · obtain ⟨rfl, rfl⟩ := fault
    rw [ctlRule_of_busFault rfl (by decide) (by simp), ctlRule_of_busFault rfl (by decide) (by simp)]
    rfl
  · refine ctlRule_withPins _ (by simp) (by simp) fun hc sample =>
      absurd ⟨hs.trans (congrArg encodeCtl hc), ?_, sample⟩ unread
    exact Bool.eq_false_of_not_eq_true fun hb => fault ⟨hc, hb⟩

/-- Settles O24: with the flag set `DISABLE_OUT` marks the cycle in any case, and `REPORT` reads no bus fault. -/
theorem laterBusFaultsChangeNothing : Obligations.LaterBusFaultsChangeNothing := by
  rintro sr m s flag (hs | hs)
  · have marks (b : Bool) : exec (.step sr b m) s =
        .next (((s.withPins (inputWord false sr b m)).goto .report).setFault true) := by
      rw [exec_step_of_code (c := .disableOut) hs, ctlRule, ruleDisableOut_of_fault (by simp [mergedFault, flag])]
    exact ⟨_, marks true, marks false⟩
  · exact busFaultIgnoredWhereNotRead sr m s (.inr (.inl hs))

/-! ### The outputs -/

/-- Settles O30: `outputs_of_code` writes the ports as functions of the six registers. -/
theorem outputsDependOnTheRegistersAlone : Obligations.OutputsDependOnTheRegistersAlone := by
  rintro s t ⟨hstate, hcnt, -, hsample, hpos, hfault⟩
  obtain ⟨c, hs⟩ := s.code_cases
  rw [outputs_of_code _ hs, outputs_of_code _ (hstate.symm.trans hs), hcnt, hsample, hpos, hfault]

section
variable (p : Params) (s : State)

/-- R80: `REPORT_STB` is 1 in the first cycle of `REPORT` with a clear flag. -/
theorem reportStb_iff :
    (outputs p s).reportStb = true ↔ s.state = encodeCtl .report ∧ s.cnt = 0 ∧ s.faultQ = false := by
  obtain ⟨c, hs⟩ := s.code_cases
  rw [outputs_of_code p hs, decide_eq_true_iff, hs, encodeCtl_inj]

/-- R80: `FAULT_STB` is 1 in the first cycle of `REPORT` with the flag set. -/
theorem faultStb_iff :
    (outputs p s).faultStb = true ↔ s.state = encodeCtl .report ∧ s.cnt = 0 ∧ s.faultQ = true := by
  obtain ⟨c, hs⟩ := s.code_cases
  rw [outputs_of_code p hs, decide_eq_true_iff, hs, encodeCtl_inj]

theorem faultStb_eq_false_of_reportStb (h : (outputs p s).reportStb = true) : (outputs p s).faultStb = false := by
  obtain ⟨-, -, clear⟩ := (reportStb_iff p s).1 h
  refine Bool.eq_false_of_not_eq_true fun fault => ?_
  obtain ⟨-, -, set⟩ := (faultStb_iff p s).1 fault
  exact absurd (clear.symm.trans set) (by decide)

end

/-- Settles O28: the two strobes are the two values of the flag in the first cycle of `REPORT`. -/
theorem strobesFireInTheFirstReportCycle : Obligations.StrobesFireInTheFirstReportCycle := by
  refine fun s => ⟨reportStb_iff _ s, faultStb_iff _ s, fun hs hcnt => ?_, ?_⟩
  · rw [outputs_of_code (c := .report) _ hs]
    simp [hcnt]
  · cases report : (outputs Config.params s).reportStb with
    | false => rfl
    | true => exact faultStb_eq_false_of_reportStb _ s report

/-- R69: the tag is 0 exactly on positions. -/
theorem tag_eq_false_iff (d : Byte) : d[7] = false ↔ d ≤ 127#8 := by
  rw [← valid_iff, valid, Bool.not_eq_true']

/-- An entry of the table is tagged exactly where it is `SENTINEL` (R66, R69). -/
theorem grayTable_tag_iff (a : Byte) : (Config.grayTable a)[7] = true ↔ Config.grayTable a = 200#8 := by
  constructor
  · intro tagged
    exact legalTable_grayTable.invalid fun position =>
      absurd (tagged.symm.trans ((tag_eq_false_iff _).2 position)) (by decide)
  · intro miss
    rw [miss]
    decide

/-- Settles O26: the strobes exclude each other, and the tag of the report tells a miss from a position. -/
theorem eventCodeOfTheOutputs : Obligations.EventCodeOfTheOutputs := by
  intro s pair
  have position : (outputs Config.params s).position = Config.grayTable s.sampleQ := pair
  rw [Outputs.event, position, ← grayTable_tag_iff, ← tag_eq_false_iff]
  cases report : (outputs Config.params s).reportStb with
  | false => cases (outputs Config.params s).faultStb <;> simp [CycleEvent.code]
  | true =>
    rw [faultStb_eq_false_of_reportStb _ s report]
    cases (Config.grayTable s.sampleQ)[7] <;> simp [CycleEvent.code]

end Sys2Proof.Machine
end

section
/-! PROOFS. The edges of a cycle with no fault (41_sampling_fsm.md section 4; 70_reset_and_hazards.md section 3): where a
line that is low in given windows falls and rises, and for how long it is low. -/

namespace Sys2Proof.Machine

/-! ### A cycle with no fault -/

/-- Settles O46: `OnGoodCycle` at every offset, with `rx` from the last sample on. -/
theorem goodCycleTimeline : Obligations.GoodCycleTimeline := by
  intro s w hs hg good j hj
  obtain ⟨t, hruns, hevents, ht⟩ := exists_onGoodCycle hs hg good j hj
  exact ⟨t, hruns, ht.code, ht.count, ht.unmarked, ht.rx_of_allSampled, ht.held, ht.reported, hevents⟩

/-! ### The edges of a line -/

/-- Up to offset `n` the level `f` is low in the `m` windows from `lo i` to before `hi i`, each apart from the next, and
high elsewhere. -/
structure LowIn (f : Nat → Bool) (n m : Nat) (lo hi : Nat → Nat) : Prop where
  low : ∀ j < n, f j = false ↔ ∃ i < m, lo i ≤ j ∧ j < hi i
  start : ∀ i < m, 1 ≤ lo i
  nonempty : ∀ i < m, lo i < hi i
  apart : ∀ k < m, ∀ i < k, hi i < lo k

section
variable {f : Nat → Bool} {n m j : Nat} {lo hi : Nat → Nat}

theorem lowIn_one {a b : Nat} (low : ∀ j < n, f j = false ↔ a ≤ j ∧ j < b) (ha : 1 ≤ a) (hab : a < b) :
    LowIn f n 1 (fun _ => a) (fun _ => b) where
  low j hj := by simpa using low j hj
  start _ _ := ha
  nonempty _ _ := hab
  apart _ hk _ hlt := by omega

/-- Just before a window the level is high. -/
theorem LowIn.high_before (h : LowIn f n m lo hi) {i : Nat} (hm : i < m) (hn : lo i < n) : f (lo i - 1) = true := by
  refine Bool.eq_true_of_not_eq_false fun low => ?_
  obtain ⟨k, hk, lower, upper⟩ := (h.low _ (by omega)).1 low
  have first := h.start i hm
  have width := h.nonempty i hm
  rcases Nat.lt_trichotomy i k with before | rfl | after
  · have := h.apart k hk i before
    omega
  · omega
  · have := h.apart i hm k after
    omega

/-- Just after a window the level is high. -/
theorem LowIn.high_after (h : LowIn f n m lo hi) {i : Nat} (hm : i < m) (hn : hi i < n) : f (hi i) = true := by
  refine Bool.eq_true_of_not_eq_false fun low => ?_
  obtain ⟨k, hk, lower, upper⟩ := (h.low _ hn).1 low
  have width := h.nonempty i hm
  rcases Nat.lt_trichotomy i k with before | rfl | after
  · have := h.apart k hk i before
    omega
  · omega
  · have := h.apart i hm k after
    omega

/-- The level falls where a window starts, and nowhere else. -/
theorem LowIn.fallsAt_iff (h : LowIn f n m lo hi) (hj : j < n) : FallsAt f j ↔ ∃ i < m, j = lo i := by
  constructor
  · rintro ⟨first, high, low⟩
    obtain ⟨i, hm, lower, upper⟩ := (h.low j hj).1 low
    refine ⟨i, hm, Nat.le_antisymm (Nat.le_of_not_lt fun inside => ?_) lower⟩
    have still := (h.low (j - 1) (by omega)).2 ⟨i, hm, by omega, by omega⟩
    exact absurd (high.symm.trans still) (by decide)
  · rintro ⟨i, hm, rfl⟩
    exact ⟨h.start i hm, h.high_before hm hj, (h.low _ hj).2 ⟨i, hm, le_rfl, h.nonempty i hm⟩⟩

/-- The level rises where a window ends, and nowhere else. -/
theorem LowIn.risesAt_iff (h : LowIn f n m lo hi) (hj : j < n) : RisesAt f j ↔ ∃ i < m, j = hi i := by
  constructor
  · rintro ⟨first, low, high⟩
    obtain ⟨i, hm, lower, upper⟩ := (h.low (j - 1) (by omega)).1 low
    refine ⟨i, hm, Nat.le_antisymm (by omega) (Nat.le_of_not_lt fun inside => ?_)⟩
    have still := (h.low j hj).2 ⟨i, hm, by omega, inside⟩
    exact absurd (high.symm.trans still) (by decide)
  · rintro ⟨i, hm, rfl⟩
    have width := h.nonempty i hm
    exact ⟨by omega, (h.low _ (by omega)).2 ⟨i, hm, by omega, by omega⟩, h.high_after hm hj⟩

/-- A level that is low in one window is low for as long as the window. -/
theorem lowCycles_eq {a b : Nat} (low : ∀ j < n, f j = false ↔ a ≤ j ∧ j < b) (hb : b ≤ n) :
    lowCycles f n = b - a := by
  have window : ((List.range n).filter fun j => !f j).Perm (List.Ico a b) := by
    refine (List.perm_ext_iff_of_nodup (List.nodup_range.filter _) (List.Ico.nodup a b)).2 fun j => ?_
    rw [List.mem_filter, List.mem_range, Bool.not_eq_true', List.Ico.mem]
    exact ⟨fun ⟨hj, hlow⟩ => (low j hj).1 hlow, fun inside => ⟨by omega, (low j (by omega)).2 inside⟩⟩
  rw [lowCycles, window.length_eq, List.Ico.length]

end

/-- The windows of `SCLK` follow each other every `2*H` cycles, and each leaves the line high for `H` of them (R100). -/
theorem lowIn_sclk {f : Nat → Bool} {n first h : Nat} (pos : 1 ≤ h) (hfirst : 1 ≤ first)
    (low : ∀ j < n, f j = false ↔ ∃ i < 8, first + 2 * h * i ≤ j ∧ j < first + 2 * h * i + h) :
    LowIn f n 8 (fun i => first + 2 * h * i) (fun i => first + 2 * h * i + h) where
  low := low
  start i _ := by omega
  nonempty i _ := by omega
  apart k _ i hik := by
    have next : 2 * h * (i + 1) ≤ 2 * h * k := Nat.mul_le_mul_left _ hik
    rw [Nat.mul_succ] at next
    omega

/-- Settles O59: each line is low in the windows of O47, so its edges are the ends of those windows. -/
theorem pulseWidthsOfAGoodCycle : Obligations.PulseWidthsOfAGoodCycle := by
  intro s w hs hg good
  have : Nonempty State := ⟨s⟩
  choose! t row using (goodCycleLineEvents s w hs hg good).1
  have hS := settleCyc_pos
  have hH := halfCyc_pos
  have hR := repeatCyc_pos
  have hP := period_eq
  have load := fun j hj => let ⟨_, load, _⟩ := row j hj; load
  have inhibit := fun j hj => let ⟨_, _, inhibit, _⟩ := row j hj; inhibit
  have loadLow := lowIn_one (f := fun j => (outputs Config.params (t j)).load) load le_rfl (by omega)
  have inhibitLow := lowIn_one (f := fun j => (outputs Config.params (t j)).inhibit) inhibit (by omega) (by omega)
  have sclkLow := lowIn_sclk (f := fun j => (outputs Config.params (t j)).sclk) hH (by omega)
    fun j hj => let ⟨_, _, _, sclk, _⟩ := row j hj; sclk
  refine ⟨t, fun j hj => let ⟨runs, _⟩ := row j hj; runs, ?_, ?_,
    1, Config.params.settleCyc + 1, Config.params.settleCyc + 2,
    3 * Config.params.settleCyc + 16 * Config.params.halfCyc + 2,
    fun i => 2 * Config.params.settleCyc + 2 + 2 * Config.params.halfCyc * i,
    fun i => 2 * Config.params.settleCyc + 2 + 2 * Config.params.halfCyc * i + Config.params.halfCyc,
    fun j hj => ⟨?_, ?_, ?_, ?_, sclkLow.fallsAt_iff hj, sclkLow.risesAt_iff hj⟩, ?_, rfl, ?_, ?_, ?_,
    fun i => ⟨rfl, ?_⟩, ?_, ?_⟩
  · rw [lowCycles_eq load (by omega)]
    omega
  · rw [lowCycles_eq inhibit (by omega)]
    omega
  · simpa using loadLow.fallsAt_iff hj
  · simpa using loadLow.risesAt_iff hj
  · simpa using inhibitLow.fallsAt_iff hj
  · simpa using inhibitLow.risesAt_iff hj
  · omega
  · omega
  · omega
  · dsimp only
    omega
  · dsimp only
    rw [Nat.mul_succ]
    omega
  · dsimp only
    omega
  · dsimp only
    omega

end Sys2Proof.Machine
end

section
/-! PROOFS. The cycle that a bus fault ends early (41_sampling_fsm.md R92; 60_exceptions.md sections 2 and 3): up to the
fault it is a cycle with no fault, and after it the path from an abort back to `IDLE`. -/

namespace Sys2Proof.Machine

/-- A run over given words takes them off the queue. -/
theorem Gives.events_of_runs {s t : State} {w : Nat → InWord} {n : Nat} (hg : Gives s w n) (h : Runs n s t) :
    t.events = s.events.drop n := by
  obtain ⟨u, hruns, hevents, -⟩ := hg.runs (P := fun _ _ => True) trivial (fun _ _ _ _ _ => trivial) n le_rfl
  rw [runs_unique h hruns, hevents]

/-- The words up to the first fault, then quiet ones. -/
def goodUntil (k : Nat) (w : Nat → InWord) (j : Nat) : InWord := if j < k then w j else 0x0#4

theorem goodWords_goodUntil {k n : Nat} {w : Nat → InWord} (h : FaultWords k n w) (hk : k ≤ n) (p : Params) :
    GoodWords p (goodUntil k w) := by
  obtain ⟨run, stop, before, -⟩ := h
  refine ⟨fun j _ => ?_, ?_, fun j first _ => ?_⟩ <;> rw [goodUntil] <;> split_ifs with hj
  · exact run j (by omega)
  · exact BitVec.getElem_zero _
  · exact stop
  · exact BitVec.getElem_zero _
  · exact before j first hj
  · exact BitVec.getElem_zero _

/-- Where the offset is in the states that read `BUS_FAULT` (60_exceptions.md R110). -/
theorem readsBusFault_of_interval {j : Nat} (first : 1 ≤ j)
    (last : j ≤ 3 * Config.params.settleCyc + 16 * Config.params.halfCyc + 2) :
    readsBusFault (cycleCtl Config.params j) = true := by
  have hP := period_eq
  have interval := (cycleCtl_eq_iff (j := j) (by omega) (cycleCtl_ne_reserved _ j)).1 rfl
  cases hc : cycleCtl Config.params j with
  | idle | report =>
    rw [hc] at interval
    simp only [entryOffset, lastCount, strobeOffset] at interval
    omega
  | reserved => exact absurd hc (cycleCtl_ne_reserved _ j)
  | latchLow | latchHigh | enableOut | transfer | disableOut => rfl

/-- Where on the abort path of `OnAbortPath` a fault at offset `k` leads: to `DISABLE_OUT`, or to `REPORT` where the fault
is in `DISABLE_OUT` itself (60_exceptions.md R112, R113). -/
def abortEntry (p : Params) (k : Nat) : Nat := if k = entryOffset p .disableOut then 1 else 0

section
variable {s t : State} {w : Nat → InWord} {k : Nat}

/-- The edge of the fault leads onto the abort path. -/
theorem OnGoodCycle.edge_of_fault (h : OnGoodCycle s w k t) (first : 1 ≤ k)
    (last : k ≤ 3 * Config.params.settleCyc + 16 * Config.params.halfCyc + 2) {v : InWord} (run : v[3] = false)
    (fault : v[1] = true) (rest : List Event) :
    OnAbortPath t (abortEntry Config.params k) (clkEdge Config.params v { t with events := rest }) := by
  have hP := period_eq
  have hR := repeatCyc_pos
  have inDisableOut : cycleCtl Config.params k = .disableOut ↔ k = entryOffset Config.params .disableOut := by
    rw [cycleCtl_eq_iff (by omega) (by decide), lastCount]
    omega
  rw [abortEntry]
  split_ifs with hk
  · have code : t.state = encodeCtl .disableOut := by rw [h.code, inDisableOut.2 hk]
    rw [clkEdge_of_code (s := { t with events := rest }) run code, ctlRule,
      ruleDisableOut_of_fault (by simp [mergedFault, fault])]
    exact ⟨by simp [abortCtl_of_report le_rfl hR], by simp, by simpa using hR, rfl, rfl, rfl⟩
  · rw [clkEdge_of_busFault (s := { t with events := rest }) _ run fault h.code
      (readsBusFault_of_interval first last) fun hc => hk (inDisableOut.1 hc)]
    exact onAbortPath_raiseBusFault t v rest

/-- Up to the fault the cycle is one with no fault. -/
theorem exists_onGoodCycle_before_fault {n : Nat} (hs : AtIdle s) (hg : Gives s w n) (hw : FaultWords k n w) (hk : k ≤ n)
    (hP : k ≤ Config.params.period) {j : Nat} (hj : j ≤ k) :
    ∃ t, Runs j s t ∧ t.events = s.events.drop j ∧ OnGoodCycle s (goodUntil k w) j t := by
  refine Gives.runs (n := k) (fun i hi => hg i (by omega)) (onGoodCycle_start _ hs) (fun i hi t rest h => ?_) j hj
  have edge := h.edge (goodWords_goodUntil hw hk _) (by omega) rest
  rwa [goodUntil, if_pos hi] at edge

/-- From any of its offsets the abort path goes on to its end. -/
theorem OnAbortPath.runs {u : State} {e n : Nat} (start : OnAbortPath s e u) (hg : Gives u w n)
    (run : ∀ i < n, (w i)[3] = false) (hn : e + n ≤ Config.params.repeatCyc + 1) {i : Nat} (hi : i ≤ n) :
    ∃ t, Runs i u t ∧ OnAbortPath s (e + i) t := by
  obtain ⟨t, hruns, -, ht⟩ := hg.runs (P := fun i => OnAbortPath s (e + i)) start
    (fun i hi _ rest h => h.edge (run i hi) (by omega) rest) i hi
  exact ⟨t, hruns, ht⟩

/-- The length of a cycle whose first fault is at offset `k` (R92). -/
theorem abortedLength_eq
    (last : k ≤ 3 * Config.params.settleCyc + 16 * Config.params.halfCyc + 2) :
    (if k ≤ 3 * Config.params.settleCyc + 16 * Config.params.halfCyc + 1 then k + 2 + Config.params.repeatCyc
      else Config.params.period) + abortEntry Config.params k = k + 2 + Config.params.repeatCyc := by
  have hP := period_eq
  rw [abortEntry]
  by_cases hk : k ≤ 3 * Config.params.settleCyc + 16 * Config.params.halfCyc + 1
  · have early : k ≠ entryOffset Config.params .disableOut := by rw [entryOffset]; omega
    rw [if_pos hk, if_neg early, Nat.add_zero]
  · have inDisableOut : k = entryOffset Config.params .disableOut := by rw [entryOffset]; omega
    rw [if_neg hk, if_pos inDisableOut]
    omega

/-- The registers after the fault: `u` is the state at its offset, with the last report still held. -/
theorem exists_onAbortPath_after_fault {len : Nat} (hs : AtIdle s) (first : 1 ≤ k)
    (last : k ≤ 3 * Config.params.settleCyc + 16 * Config.params.halfCyc + 2) (hg : Gives s w len)
    (hw : FaultWords k len w) (hlen : len + abortEntry Config.params k = k + 2 + Config.params.repeatCyc)
    (hk : k + 1 ≤ len) :
    ∃ u, (u.sampleQ = s.sampleQ ∧ u.posQ = s.posQ) ∧ ∀ i, k + 1 + i ≤ len →
      ∃ t, Runs (k + 1 + i) s t ∧ OnAbortPath u (abortEntry Config.params k + i) t := by
  have hP := period_eq
  obtain ⟨u, toFault, events, hu⟩ := exists_onGoodCycle_before_fault hs hg hw (by omega) (by omega) (le_refl k)
  refine ⟨u, hu.held (by rw [strobeOffset]; omega), fun i hi => ?_⟩
  obtain ⟨run, -, -, fault⟩ := hw
  have words : Gives u (fun j => w (k + j)) (len - k - 1 + 1) := hg.drop (by omega) events
  obtain ⟨rest, -, hstep, after⟩ := gives_step words
  have entered := hu.edge_of_fault first last (run k hk) fault rest
  obtain ⟨t, onPath, ht⟩ := entered.runs (after _ (clkEdge_events _ _ _)) (fun j hj => run _ (by omega)) (by omega)
    (show i ≤ len - k - 1 by omega)
  have reached : Runs (1 + i) u t := by
    rw [Nat.add_comm]
    exact runs_succ.2 ⟨_, hstep, onPath⟩
  exact ⟨t, by rw [Nat.add_assoc]; exact runs_add toFault reached, ht⟩

end

/-- The states of the abort path, offset by offset. -/
theorem abortCtl_eq_report_iff {p : Params} {j : Nat} : abortCtl p j = .report ↔ 1 ≤ j ∧ j ≤ p.repeatCyc := by
  unfold abortCtl
  split_ifs <;> simp <;> omega

theorem abortCtl_eq_idle_iff {p : Params} {j : Nat} (hj : j ≤ p.repeatCyc + 1) :
    abortCtl p j = .idle ↔ j = p.repeatCyc + 1 := by
  unfold abortCtl
  split_ifs <;> simp <;> omega

section
variable {s t : State} {j : Nat}

/-- An aborted cycle has no report strobe: the flag is set throughout `REPORT`. -/
theorem OnAbortPath.reportStb_eq_false (h : OnAbortPath s j t) : (outputs Config.params t).reportStb = false := by
  refine Bool.eq_false_of_not_eq_true fun strobe => ?_
  obtain ⟨hs, -, clear⟩ := (reportStb_iff _ t).1 strobe
  have report := abortCtl_eq_report_iff.1 (encodeCtl_inj.1 (h.code.symm.trans hs))
  rw [h.flag, decide_eq_true report.2] at clear
  exact absurd clear (by decide)

/-- An aborted cycle has one fault strobe, in the first cycle of `REPORT`. -/
theorem OnAbortPath.faultStb_iff (h : OnAbortPath s j t) : (outputs Config.params t).faultStb = true ↔ j = 1 := by
  have hR := repeatCyc_pos
  rw [Machine.faultStb_iff, h.code, encodeCtl_inj, abortCtl_eq_report_iff, h.count, h.flag, decide_eq_true_iff]
  split_ifs <;> omega

theorem OnAbortPath.idle_iff (h : OnAbortPath s j t) (hj : j ≤ Config.params.repeatCyc + 1) :
    t.state = encodeCtl .idle ↔ j = Config.params.repeatCyc + 1 := by
  rw [h.code, encodeCtl_inj, abortCtl_eq_idle_iff hj]

end

/-- Settles O48: up to the fault the offsets are those of `OnGoodCycle`, after it those of `OnAbortPath`. -/
theorem abortedCycleLength : Obligations.AbortedCycleLength := by
  intro s w k len hs first last hlen hg hw
  have hP := period_eq
  have hR := repeatCyc_pos
  have length := abortedLength_eq last
  rw [← hlen] at length
  have entry : abortEntry Config.params k ≤ 1 := by rw [abortEntry]; split_ifs <;> omega
  obtain ⟨u, ⟨sample, pos⟩, path⟩ := exists_onAbortPath_after_fault hs first last hg hw length (by omega)
  refine ⟨fun j hj => ?_, ?_⟩
  · rcases Nat.lt_or_ge k j with after | before
    · obtain ⟨i, rfl⟩ := Nat.exists_eq_add_of_le (Nat.succ_le_of_lt after)
      obtain ⟨t, hruns, ht⟩ := path i hj
      obtain ⟨-, sampleKept, posKept⟩ := ht.kept
      refine ⟨t, hruns, sampleKept.trans sample, posKept.trans pos, ht.reportStb_eq_false, ht.faultStb_iff.trans ?_,
        (ht.idle_iff (by omega)).trans ?_⟩ <;> omega
    · obtain ⟨t, hruns, -, ht⟩ := exists_onGoodCycle_before_fault hs hg hw (by omega) (by omega) before
      have noStrobe : j ≠ strobeOffset Config.params := by rw [strobeOffset]; omega
      obtain ⟨sampleHeld, posHeld⟩ := ht.held (by rw [strobeOffset]; omega)
      refine ⟨t, hruns, sampleHeld, posHeld,
        Bool.eq_false_of_not_eq_true fun h => noStrobe ((ht.reportStb_iff (by omega)).1 h), ?_, ?_⟩
      · rw [ht.faultStb_eq_false]
        simp only [Bool.false_eq_true, false_iff]
        omega
      · have idle : t.state = encodeCtl .idle ↔ cycleCtl Config.params j = .idle := by rw [ht.code, encodeCtl_inj]
        refine idle.trans ?_
        rw [cycleCtl_eq_iff (by omega) (by decide)]
        simp only [entryOffset, lastCount]
        omega
  · obtain ⟨i, hi⟩ := Nat.exists_eq_add_of_le (show k + 1 ≤ len by omega)
    obtain ⟨t, hruns, ht⟩ := path i hi.ge
    have ending : abortEntry Config.params k + i = Config.params.repeatCyc + 1 := by omega
    exact ⟨t, hi ▸ hruns, OnAbortPath.atIdle (ending ▸ ht)⟩

end Sys2Proof.Machine
end

section
/-! PROOFS. The stimulus lines `CYCLE` and `CYCLE_FAULT` (30_encoding.md section 3): the words of their expansions, and the
controller cycle that each of them is. -/

namespace Sys2Proof.Machine

/-- The words at the head of a queue are given, and the rest follows them. -/
theorem gives_of_events {s : State} {w : Nat → InWord} {n : Nat} {rest : List Event}
    (h : s.events = ((List.range n).map w).map .clk ++ rest) : Gives s w n ∧ s.events.drop n = rest := by
  refine ⟨fun j hj => ?_, ?_⟩
  · rw [h, List.getElem?_append_left (by simpa using hj)]
    simp [hj]
  · rw [h, List.drop_left' (by simp)]

/-- The word at offset `j` of a line that presents `b`, with the bus faults of `fault` (30_encoding.md R59). -/
def lineWord (p : Params) (b : Byte) (fault : Nat → Bool) (j : Nat) : InWord :=
  inputWord false false (fault j) (cycleMiso p b j)

theorem cycleWords_eq (p : Params) (b : Byte) :
    cycleWords p b = (List.range p.period).map (lineWord p b fun _ => false) := rfl

theorem faultCycleLength_le (p : Params) (k : Nat) : faultCycleLength p k ≤ p.period := by
  rw [faultCycleLength, Params.period]
  split_ifs <;> omega

/-- Bit 1 of an `INPUT` word is `BUS_FAULT` (R53). -/
theorem inputWord_or_busFault : ∀ m, inputWord false false false m ||| 0x2#4 = inputWord false false true m := by
  decide

theorem faultCycleWords_eq (p : Params) (b : Byte) (k : Nat) :
    faultCycleWords p b k = (List.range (faultCycleLength p k)).map (lineWord p b fun j => decide (j = k)) := by
  have short := faultCycleLength_le p k
  refine List.ext_getElem (by simp [faultCycleWords, cycleWords, short]) fun j _ _ => ?_
  simp only [faultCycleWords, cycleWords, List.getElem_modify, List.getElem_take, List.getElem_map,
    List.getElem_range, lineWord, inputWord_or_busFault]
  by_cases hj : j = k
  · simp [hj]
  · simp [hj, Ne.symm hj]

section
variable {p : Params} {b : Byte} {fault : Nat → Bool}

/-- The level of a bit stands throughout its window, and so in its sample cycle (R59, R102). -/
theorem cycleMiso_sampleOffset (hH : 1 ≤ p.halfCyc) {i : Nat} (hi : i < 8) :
    cycleMiso p b (sampleOffset p i) = b.getLsbD (7 - i) := by
  have window := window_le p hi
  have offset : sampleOffset p i = transferOffset p + (2 * p.halfCyc * i + (p.halfCyc - 1)) := by
    rw [sampleOffset, transferOffset]
    omega
  have bit : (2 * p.halfCyc * i + (p.halfCyc - 1)) / (2 * p.halfCyc) = i := by
    rw [Nat.mul_add_div (by omega), Nat.div_eq_of_lt (by omega), Nat.add_zero]
  have inside : 2 * p.halfCyc * i + (p.halfCyc - 1) < 16 * p.halfCyc := by omega
  simp [cycleMiso, offset, bit, inside]

theorem presentedByte_lineWord (hH : 1 ≤ p.halfCyc) : presentedByte p (lineWord p b fault) = b := by
  refine BitVec.eq_of_getLsbD_eq fun i hi => ?_
  rw [presentedByte, getLsbD_byteOf _ hi, lineWord, inputWord_miso, cycleMiso_sampleOffset hH (by omega)]
  congr 1
  omega

theorem goodWords_lineWord
    (quiet : ∀ j, 1 ≤ j → j ≤ 3 * p.settleCyc + 16 * p.halfCyc + 2 → fault j = false) :
    GoodWords p (lineWord p b fault) :=
  ⟨fun _ _ => inputWord_rst _ _ _ _, inputWord_stopReq _ _ _ _,
    fun j first last => (inputWord_busFault _ _ _ _).trans (quiet j first last)⟩

theorem faultWords_lineWord {k n : Nat} : FaultWords k n (lineWord p b fun j => decide (j = k)) :=
  ⟨fun _ _ => inputWord_rst _ _ _ _, inputWord_stopReq _ _ _ _,
    fun _ _ before => (inputWord_busFault _ _ _ _).trans (decide_eq_false (Nat.ne_of_lt before)),
    (inputWord_busFault _ _ _ _).trans (decide_eq_true rfl)⟩

end

/-- A line whose faults are all where none is read takes one period and reports its byte. -/
theorem exists_end_of_goodLine {s : State} {b : Byte} {fault : Nat → Bool} {rest : List Event} (hs : AtIdle s)
    (quiet : ∀ j, 1 ≤ j → j ≤ 3 * Config.params.settleCyc + 16 * Config.params.halfCyc + 2 → fault j = false)
    (hevents : s.events = ((List.range Config.params.period).map (lineWord Config.params b fault)).map .clk ++ rest) :
    ∃ t, Runs Config.params.period s t ∧ AtIdle t ∧ t.rx = b ∧ (t.sampleQ = b ∧ t.posQ = Config.grayTable b) ∧
      t.events = rest := by
  have hP := period_eq
  obtain ⟨hg, hrest⟩ := gives_of_events hevents
  obtain ⟨t, hruns, events, ht⟩ := exists_onGoodCycle hs hg (goodWords_lineWord quiet) _ le_rfl
  have rx := ht.rx_of_allSampled (by rw [entryOffset]; omega)
  have report := ht.reported (by rw [strobeOffset]; omega)
  rw [presentedByte_lineWord halfCyc_pos] at rx report
  exact ⟨t, hruns, ht.atIdle, rx, report, events.trans hrest⟩

/-- Settles O52: the line has no fault at all. -/
theorem cycleLineReadsItsByte : Obligations.CycleLineReadsItsByte := by
  intro s b rest hs hevents
  rw [expandLine, cycleWords_eq] at hevents ⊢
  obtain ⟨t, hruns, idle, rx, ⟨sample, pos⟩, hrest⟩ := exists_end_of_goodLine hs (fun _ _ _ => rfl) hevents
  exact ⟨by simp, t, hruns, idle, rx, sample, pos, hrest⟩

/-- Settles O53: a fault that is read ends the line as O48 has it, and any other leaves it a good one. -/
theorem cycleFaultLineLeavesIdle : Obligations.CycleFaultLineLeavesIdle := by
  intro s b k rest hs admitted hevents
  rw [expandLine, faultCycleWords_eq] at hevents ⊢
  rw [List.length_map, List.length_range]
  by_cases read : 1 ≤ k ∧ k ≤ 3 * Config.params.settleCyc + 16 * Config.params.halfCyc + 2
  · obtain ⟨first, last⟩ := read
    obtain ⟨hg, hrest⟩ := gives_of_events hevents
    have length : faultCycleLength Config.params k =
        if k ≤ 3 * Config.params.settleCyc + 16 * Config.params.halfCyc + 1 then k + 2 + Config.params.repeatCyc
        else Config.params.period := by
      simp [faultCycleLength, first]
    obtain ⟨offsets, t, hruns, idle⟩ := abortedCycleLength s _ k _ hs first last length hg faultWords_lineWord
    obtain ⟨t', hruns', sample, pos, -⟩ := offsets _ le_rfl
    obtain rfl := runs_unique hruns hruns'
    refine ⟨t, hruns, idle, (hg.events_of_runs hruns).trans hrest, fun aborts => ?_, fun late => ?_,
      fun _ => ⟨sample, pos⟩, fun ignored => by omega⟩
    · rw [length, if_pos aborts.2]
    · rw [length, if_neg (by omega)]
  · have length : faultCycleLength Config.params k = Config.params.period := if_neg (by omega)
    rw [length] at hevents ⊢
    obtain ⟨t, hruns, idle, -, report, hrest⟩ := exists_end_of_goodLine hs
      (fun j first last => decide_eq_false fun (hj : j = k) => read (hj ▸ ⟨first, last⟩)) hevents
    exact ⟨t, hruns, idle, hrest, fun aborts => by omega, fun _ => rfl, fun held => absurd held read, fun _ => report⟩

end Sys2Proof.Machine
end

section
/-! PROOFS. The way back to `IDLE` (41_sampling_fsm.md R93; 60_exceptions.md R118): under any inputs each edge outside `IDLE`
ends the cycle or goes on to a later offset of it, and the period bounds the offsets. -/

namespace Sys2Proof.Machine

/-- The offset in a good cycle at which a state with these registers stands. -/
def cycleOffset (s : State) : Nat := entryOffset Config.params (decodeCtl s.state) + s.cnt

section
variable {s t : State} {c : Ctl}

theorem cycleOffset_of_code (hs : s.state = encodeCtl c) : cycleOffset s = entryOffset Config.params c + s.cnt := by
  rw [cycleOffset, hs, decodeCtl_encodeCtl]

/-- A state that meets the invariant stands within the period. -/
theorem StateInv.cycleOffset_lt (hi : StateInv s) : cycleOffset s < Config.params.period := by
  obtain ⟨c, hs⟩ := s.code_cases
  have reserved : c ≠ .reserved := fun hc => hi.ne_reserved (hc ▸ hs)
  rw [cycleOffset_of_code hs]
  exact (Nat.add_le_add_left (hi.cnt_le hs) _).trans_lt (lastOffset_lt_period reserved)

/-- `DISABLE_OUT` comes after each state from which a bus fault leads there. -/
theorem lastOffset_lt_disableOut (disableOut : c ≠ .disableOut) (report : c ≠ .report) (reserved : c ≠ .reserved) :
    entryOffset Config.params c + lastCount Config.params c < entryOffset Config.params .disableOut := by
  have hS := settleCyc_pos
  cases c with
  | disableOut => exact absurd rfl disableOut
  | report => exact absurd rfl report
  | reserved => exact absurd rfl reserved
  | idle | latchLow | latchHigh | enableOut | transfer =>
    simp only [entryOffset, lastCount, transferCyc]
    omega

/-- Outside `IDLE` and `REPORT` each move of `RuleStep` goes on to a later offset. -/
theorem RuleStep.cycleOffset_lt (h : RuleStep Config.params c s t) (hs : s.state = encodeCtl c) (idle : c ≠ .idle)
    (report : c ≠ .report) (reserved : c ≠ .reserved) (hcnt : s.cnt ≤ lastCount Config.params c) :
    cycleOffset s < cycleOffset t := by
  have next := entryOffset_successor reserved
  rw [if_neg report] at next
  rw [cycleOffset_of_code hs]
  cases h with
  | hold hc => exact absurd hc idle
  | count r below =>
    rw [cycleOffset_of_code (s := { State.tick Config.params s with rx := r }) hs, tick_cnt_of_lt below]
    omega
  | advance r =>
    rw [cycleOffset_of_code (c := successor c) rfl]
    omega
  | abort _ disableOut =>
    have := lastOffset_lt_disableOut disableOut report reserved
    rw [cycleOffset_of_code (c := .disableOut) rfl]
    omega
  | writeReport hc | holdReport hc =>
    subst hc
    rw [cycleOffset_of_code (c := .report) rfl]
    simp only [successor] at next
    omega
  | finish hc =>
    cases c with
    | report => exact absurd rfl report
    | reserved => exact absurd rfl reserved
    | idle | latchLow | latchHigh | enableOut | transfer | disableOut => exact absurd hc (by decide)

/-- An edge from a state that meets the invariant leads to `IDLE` or on to a later offset, unless it starts in `IDLE`. -/
theorem clkEdge_idle_or_later (hi : StateInv s) (hidle : s.state ≠ encodeCtl .idle) (w : InWord) :
    (clkEdge Config.params w s).state = encodeCtl .idle ∨
      cycleOffset s < cycleOffset (clkEdge Config.params w s) := by
  obtain ⟨c, hs⟩ := s.code_cases
  have idle : c ≠ .idle := fun hc => hidle (hc ▸ hs)
  have reserved : c ≠ .reserved := fun hc => hi.ne_reserved (hc ▸ hs)
  by_cases reset : w[3] = true
  · obtain ⟨state, -⟩ := registersReset_clkEdge Config.params reset s
    exact .inl state
  rw [clkEdge_of_code (Bool.eq_false_of_not_eq_true reset) hs]
  by_cases report : c = .report
  · subst report
    rw [ctlRule, ruleReport_eq]
    split_ifs with full
    · exact .inl rfl
    · refine .inr ?_
      rw [cycleOffset_of_code hs, cycleOffset_of_code (s := State.tick Config.params (s.withPins w)) hs,
        tick_cnt_of_lt (Nat.lt_of_not_le full)]
      exact Nat.lt_succ_self _
  · exact .inr ((ctlRule_ruleStep Config.params c (s.withPins w)).cycleOffset_lt hs idle report reserved (hi.cnt_le hs))

end

/-- The offsets left in the period bound the way back to `IDLE`. -/
theorem exists_idle_of_period_le {n : Nat} {s : State} {w : Nat → InWord} (hi : StateInv s) (hg : Gives s w n)
    (enough : Config.params.period ≤ cycleOffset s + n) : ∃ k ≤ n, ∃ t, Runs k s t ∧ t.state = encodeCtl .idle := by
  induction n generalizing s w with
  | zero =>
    have := hi.cycleOffset_lt
    omega
  | succ n ih =>
    by_cases hidle : s.state = encodeCtl .idle
    · exact ⟨0, Nat.zero_le _, s, runs_zero.2 rfl, hidle⟩
    obtain ⟨rest, -, hstep, after⟩ := gives_step hg
    have fetched : StateInv { s with events := rest } := hi.of_sameRegisters ⟨rfl, rfl, rfl, rfl, rfl, rfl⟩
    rcases clkEdge_idle_or_later fetched hidle (w 0) with back | later
    · exact ⟨1, by omega, _, runs_succ.2 ⟨_, hstep, runs_zero.2 rfl⟩, back⟩
    · have further : cycleOffset s < cycleOffset (clkEdge Config.params (w 0) { s with events := rest }) := later
      obtain ⟨k, hk, t, hruns, ht⟩ :=
        ih (clkEdge_keeps_stateInv (w 0) fetched) (after _ (clkEdge_events _ _ _)) (by omega)
      exact ⟨k + 1, by omega, t, runs_succ.2 ⟨_, hstep, hruns⟩, ht⟩

/-- Outside `IDLE` the block is past the first offset of a cycle. -/
theorem StateInv.cycleOffset_pos {s : State} (hi : StateInv s) (hidle : s.state ≠ encodeCtl .idle) :
    1 ≤ cycleOffset s := by
  obtain ⟨c, hs⟩ := s.code_cases
  rw [cycleOffset_of_code hs]
  cases c with
  | idle => exact absurd hs hidle
  | reserved => exact absurd hs hi.ne_reserved
  | latchLow | latchHigh | enableOut | transfer | disableOut | report =>
    simp only [entryOffset, strobeOffset]
    omega

/-- Settles O51: outside `IDLE` every edge goes on to a later offset of the period, so `P - 1` of them are enough. -/
theorem everyCycleComesBackToIdle : Obligations.EveryCycleComesBackToIdle := by
  intro s w hi hg
  have hP := period_eq
  by_cases hidle : s.state = encodeCtl .idle
  · exact ⟨0, by omega, s, runs_zero.2 rfl, hidle⟩
  have := hi.cycleOffset_pos hidle
  obtain ⟨k, hk, found⟩ :=
    exists_idle_of_period_le (n := Config.params.period - 1) hi (fun j hj => hg j (by omega)) (by omega)
  exact ⟨k, by omega, found⟩

end Sys2Proof.Machine
end
